-- ==== Sys2Proof/Word.lean ====
section
/-! DEFINITION. The widths and the closed sets of names the spec gives the PTW's signals (00_scope.md R10, R12). -/

namespace Sys2Proof

/-- A 32-bit word of the Memory, that is, a page-table entry as it is read (R10, R40). Bit 31 is the most significant (R12). -/
abbrev Word := BitVec 32

/-- A 32-bit virtual, memory or physical address (R10, R34). -/
abbrev Addr := BitVec 32

/-- The value of the 2-bit `state` register (R21, R63). `unused3` is the code `0b11`, which the source calls
"unused" (R35): no operation writes it, and only a power-on before the first reset tick can leave it there (R184). -/
inductive WalkState where
  | idle
  | level1
  | level2
  | unused3
  deriving DecidableEq, Repr, Inhabited

/-- The 1-bit `request_type` input: `0` is READ, `1` is WRITE (R64). -/
inductive RequestType where
  | read
  | write
  deriving DecidableEq, Repr, Inhabited

/-- The four host inputs of one tick (R27). -/
structure Inputs where
  /-- the address to translate -/
  virtualAddr : Addr
  /-- 1 starts a walk, looked at only when the PTW is idle (R98) -/
  newRequest : Bool
  /-- 1 forces the next state to `IDLE`, above everything else (R180) -/
  reset : Bool
  /-- looked at only in a `LEVEL2` tick (R187) -/
  requestType : RequestType
  deriving DecidableEq, Repr, Inhabited

/-- Every value a tick's combinational logic can see: the two registers, the four inputs and the word the Memory
holds at `next_addr` (R4, R140). -/
structure TickSignals where
  walkState : WalkState
  nextAddr : Addr
  inputs : Inputs
  /-- `mem_rdata`, the word `MemRead(next_addr)` of this tick (R29) -/
  rdata : Word
  deriving DecidableEq, Repr, Inhabited

end Sys2Proof
end

