-- ==== Sys2Proof/Config.lean ====
section
/-! DEFINITION. What is fixed for the unit (R10, R25), the named parameters of R11, and the free values: the `X` cells
of R14, each an opaque constant no proof can see into (93_implementation_defined.md U1, U2, U3, U5). -/

namespace Sys2Proof

/-- `BaseRegister`, the upper 22 bits of every root-table address (R25, decision D19). UNVERIFIED, unsafe:
log entry 9. -/
def Config.base : BitVec 22 := 0x3FFBFF

/-- `UNPOPULATED_WORD`: the word at an address nobody has populated (R46, decision D11). UNVERIFIED, unsafe:
log entry 3. -/
def Config.unpopulatedWord : Word := 0x00000000

/-- The two orders the source leaves to the implementer for an invalid leaf whose needed permission is denied
(decision D1). -/
inductive LeafPriority where
  | permOverFault
  | faultOverPerm
  deriving DecidableEq, Repr

/-- `LEAF_PRIORITY`: the spec keeps permission over page fault (R128, decision D1). UNVERIFIED, unsafe: log entry 10. -/
def Config.leafPriority : LeafPriority := .permOverFault

/-- The two byte orders a byte-addressed store could use. -/
inductive ByteOrder where
  | littleEndian
  | bigEndian
  deriving DecidableEq, Repr, Inhabited

/-- `PLATFORM_BYTE_ORDER`, an OPEN parameter that no rule of the PTW reads (R11, R41, decision D8). Safe: log entry 2. -/
opaque Config.platformByteOrder : ByteOrder

/-! ### Free values of the hardware

Each takes the draw counter of State and every signal of the tick, so that nothing relates the values of two different
ticks, nor those of two machines whose signals differ. DESIGN CHOICE, safe: log entry 4. -/

/-- `next_addr` after a reset tick (R32, U1). -/
opaque Config.freeNextAddr : Nat → TickSignals → Addr

/-- `physical_addr` in a reset tick and whenever `finished_walk = 0` (R115, R182, U2, U3). -/
opaque Config.freePhysicalAddr : Nat → TickSignals → Addr

/-- `valid` in a reset tick (R182, U2). -/
opaque Config.freeValid : Nat → TickSignals → Bool

/-- `dirty` in a reset tick (R182, U2). -/
opaque Config.freeDirty : Nat → TickSignals → Bool

/-- `referenced` in a reset tick (R182, U2). -/
opaque Config.freeReferenced : Nat → TickSignals → Bool

/-- `error_code` in a reset tick: any 3-bit value, the never-produced ones among them (R73, R182, U2). -/
opaque Config.freeErrorCode : Nat → TickSignals → BitVec 3

/-- `finished_walk` in a reset tick (R182, U2). -/
opaque Config.freeFinishedWalk : Nat → TickSignals → Bool

/-- `state` at power-on, the unused code among its values (R184, U5). -/
opaque Config.powerOnWalkState : Nat → WalkState

/-- `next_addr` at power-on (R184, U5). -/
opaque Config.powerOnNextAddr : Nat → Addr

/-! ### Free choices of the host and of the other agents

Used only in a tick for which State lists no stimulus: the host "chooses the four input values of every tick freely"
(R19), and the Memory may change between ticks (R54, decision D10). DESIGN CHOICE: log entry 6. -/

/-- The four inputs of a tick whose stimulus is not listed. -/
opaque Config.freeInputs : Nat → Inputs

/-- The words other agents put in the Memory after a tick whose stimulus is not listed. -/
opaque Config.freePokes : Nat → List (Addr × Word)

end Sys2Proof
end

