-- ==== Sys2Proof/Syntax.lean ====
section
/-! DEFINITION. The PTW's instructions are the *operations* of a tick (R9): one constructor per row of the operation map
(R70). A constructor's arguments are the letters of the row's pattern `r ss n v` that the row leaves free. -/

namespace Sys2Proof

/-- One operation, with the free bits of its control word (R69, R70). -/
inductive Instr where
  /-- `OP_RESET`, pattern `1ssnv` (R91). -/
  | opReset (ss : WalkState) (n v : Bool)
  /-- `OP_IDLE_WAIT`, pattern `0000v` (R92). -/
  | opIdleWait (v : Bool)
  /-- `OP_IDLE_START`, pattern `0001v` (R93). -/
  | opIdleStart (v : Bool)
  /-- `OP_L1_FAULT`, pattern `001n0` (R94). -/
  | opL1Fault (n : Bool)
  /-- `OP_L1_DESCEND`, pattern `001n1` (R95). -/
  | opL1Descend (n : Bool)
  /-- `OP_L2_FINISH`, pattern `010nv` (R96). -/
  | opL2Finish (n v : Bool)
  /-- `RESERVED_STATE3`, pattern `011nv` (R101). -/
  | reservedState3 (n v : Bool)
  deriving DecidableEq, Repr

/-- The operation's name in the operation map (R70, decision D16). -/
def Instr.mnemonic : Instr → String
  | .opReset _ _ _ => "OP_RESET"
  | .opIdleWait _ => "OP_IDLE_WAIT"
  | .opIdleStart _ => "OP_IDLE_START"
  | .opL1Fault _ => "OP_L1_FAULT"
  | .opL1Descend _ => "OP_L1_DESCEND"
  | .opL2Finish _ _ => "OP_L2_FINISH"
  | .reservedState3 _ _ => "RESERVED_STATE3"

end Sys2Proof
end

