-- ==== Sys2Proof/WellFormed.lean ====
section
/-! DEFINITION. The one check on an operation: its control word is not one of the reserved ones (R71). Every combination
of the free bits of the six other rows is legal, `OP_RESET` from the unused state value among them (R91). -/

namespace Sys2Proof

/-- The operation is one of the six the source's transition table has a row for (R70, R71, R101). -/
def Instr.wellFormed : Instr → Bool
  | .opReset _ _ _ => true
  | .opIdleWait _ => true
  | .opIdleStart _ => true
  | .opL1Fault _ => true
  | .opL1Descend _ => true
  | .opL2Finish _ _ => true
  | .reservedState3 _ _ => false

end Sys2Proof
end

