-- ==== Sys2Proof/Decode.lean ====
section
/-! DEFINITION. The control word (R69), the operation map as the spec tabulates it (R70), the decoder from a control word
to the operation it selects, and the encoder back. -/

namespace Sys2Proof

/-- The 2-bit code of a state value (R63). -/
def WalkState.code : WalkState → BitVec 2
  | .idle => 0b00
  | .level1 => 0b01
  | .level2 => 0b10
  | .unused3 => 0b11

/-- The state value of a 2-bit code (R63, R71). -/
def WalkState.ofCode (c : BitVec 2) : WalkState :=
  if c = 0b00 then .idle else if c = 0b01 then .level1 else if c = 0b10 then .level2 else .unused3

/-- The control word `cw = {reset, state[1:0], new_request, entry_valid}`, bit 4 first (R69). -/
def packControlWord (reset : Bool) (ss : WalkState) (newRequest entryValid : Bool) : BitVec 5 :=
  BitVec.ofBool reset ++ (ss.code ++ (BitVec.ofBool newRequest ++ BitVec.ofBool entryValid))

/-- Bit 4 of a control word: the `reset` input (R69). -/
def cwReset (cw : BitVec 5) : Bool := cw.getLsbD 4

/-- Bits 3 to 2 of a control word: the `state` register (R69). -/
def cwState (cw : BitVec 5) : WalkState := WalkState.ofCode (cw.extractLsb' 2 2)

/-- Bit 1 of a control word: the `new_request` input (R69). -/
def cwNewRequest (cw : BitVec 5) : Bool := cw.getLsbD 1

/-- Bit 0 of a control word: `entry_valid` (R69). -/
def cwEntryValid (cw : BitVec 5) : Bool := cw.getLsbD 0

/-- The operation a control word selects: total, since the rows of R70 cover all 32 values. -/
def decode (cw : BitVec 5) : Instr :=
  if cwReset cw then .opReset (cwState cw) (cwNewRequest cw) (cwEntryValid cw)
  else
    match cwState cw with
    | .idle =>
      if cwNewRequest cw then .opIdleStart (cwEntryValid cw) else .opIdleWait (cwEntryValid cw)
    | .level1 =>
      if cwEntryValid cw then .opL1Descend (cwNewRequest cw) else .opL1Fault (cwNewRequest cw)
    | .level2 => .opL2Finish (cwNewRequest cw) (cwEntryValid cw)
    | .unused3 => .reservedState3 (cwNewRequest cw) (cwEntryValid cw)

/-- Why a byte is no control word. -/
inductive DecodeError where
  /-- a bit above bit 4 is set: a control word "has one fixed length (5 bits)" (R69) -/
  | bitsAboveControlWord
  deriving DecidableEq, Repr

/-- Decoding a whole byte, as the opcode table's rows are laid out: bits 7 to 5 must be 0 (R69, R74). -/
def decodeByte (b : BitVec 8) : Except DecodeError Instr :=
  if b.toNat < 32 then .ok (decode (b.setWidth 5)) else .error .bitsAboveControlWord

/-- The control word of an operation, its free letters filled in (R70). -/
def encode : Instr → BitVec 5
  | .opReset ss n v => packControlWord true ss n v
  | .opIdleWait v => packControlWord false .idle false v
  | .opIdleStart v => packControlWord false .idle true v
  | .opL1Fault n => packControlWord false .level1 n false
  | .opL1Descend n => packControlWord false .level1 n true
  | .opL2Finish n v => packControlWord false .level2 n v
  | .reservedState3 n v => packControlWord false .unused3 n v

/-- A row of the operation map (R70): a control word `cw` selects it when `cw & mask = matchBits`. -/
structure OpRow where
  mnemonic : String
  matchBits : BitVec 5
  mask : BitVec 5
  deriving DecidableEq, Repr

/-- The operation map, row by row (R70). -/
def opTable : List OpRow :=
  [⟨"OP_RESET", 0x10, 0x10⟩, ⟨"OP_IDLE_WAIT", 0x00, 0x1E⟩, ⟨"OP_IDLE_START", 0x02, 0x1E⟩,
   ⟨"OP_L1_FAULT", 0x04, 0x1D⟩, ⟨"OP_L1_DESCEND", 0x05, 0x1D⟩, ⟨"OP_L2_FINISH", 0x08, 0x1C⟩,
   ⟨"RESERVED_STATE3", 0x0C, 0x1C⟩]

/-- The row selects the control word. -/
def OpRow.selects (r : OpRow) (cw : BitVec 5) : Bool := cw &&& r.mask == r.matchBits

/-- The operation the decoder reads from a word of the opcode table. A control word is one byte long whatever the row's
`_nbits`, and every bit above it is 0. -/
def decodeTableWord (_nbits w : Nat) : Option Instr :=
  if w < 256 then
    match decodeByte (BitVec.ofNat 8 w) with
    | .ok i => some i
    | .error _ => none
  else none

end Sys2Proof
end

