-- ==== Sys2Proof/Machine/State.lean ====
section
/-! DEFINITION. The machine's state as plain data: the PTW's two registers (R20), and beside them the surroundings one
step needs to be a function of one argument: the Memory (R30), the host's stimulus (R9, R27), what the last tick drove on
the outputs and on the memory port (R28, R29), and the counter of free values. -/

namespace Sys2Proof.Machine

/-- The Memory: one 32-bit word at each of the 2^32 addresses (R40), as the list of the words that differ from what an
unpopulated address reads as, by rising address (`Memory.wf`). The cell is a word, the spec's smallest unit (R41, D8).
DEDUCED, safe: log entry 2. -/
abbrev Memory := List (Nat × Word)

/-- The six host outputs of one tick (R28). -/
structure Outputs where
  physicalAddr : Addr
  valid : Bool
  dirty : Bool
  referenced : Bool
  errorCode : BitVec 3
  finishedWalk : Bool
  deriving DecidableEq, Repr

/-- The two signals the PTW drives on the memory port in one tick (R29). -/
structure MemPort where
  memAddr : Addr
  memRen : Bool
  deriving DecidableEq, Repr

/-- What the surroundings do for one tick: the four inputs the host drives during it (R27), and the words other agents put
in the Memory after it, before the next tick (R54, R57). -/
structure Stimulus where
  inputs : Inputs
  pokes : List (Addr × Word)
  deriving DecidableEq, Repr

/-- The state of the machine before a tick. -/
structure State where
  /-- the `state` register, 2 bits (R21) -/
  walkState : WalkState
  /-- the `next_addr` register, 32 bits (R22) -/
  nextAddr : Addr
  /-- the Memory of this tick (R30, R40), not a register of the PTW -/
  mem : Memory
  /-- the stimulus trace still to come, this tick's first (R9, R75); a tick past its end is free (log entry 6) -/
  stimulus : List Stimulus
  /-- what the tick just ended drove on the six outputs (R28); no operation reads it (R20, R151) -/
  out : Outputs
  /-- what the tick just ended drove on the memory port (R29); no operation reads it -/
  port : MemPort
  /-- the model's own counter: the index of the next free values (log entry 4) -/
  draw : Nat
  deriving DecidableEq, Repr

/-- The reasons the machine stops. -/
inductive Fault where
  /-- Raised by `RESERVED_STATE3` only: `state = 0b11` with `reset = 0`, which "has no defined next state and no defined
  outputs" (R101, decision D5). Safe: the model stops where the spec gives no behaviour. -/
  | unusedState3
  deriving DecidableEq, Repr

/-- The reasons the model gives an operation no meaning. -/
inductive Refusal where
  /-- Raised only by an arm of `exec` for an operation without a meaning; no arm is one. Safe: the model stops. -/
  | notModelled (mnemonic : String)
  deriving DecidableEq, Repr

/-- Right after a reset tick (R32, R183): `state = IDLE`. The spec leaves `next_addr` unspecified; the model names 0 (log
entry 5, DESIGN CHOICE). No address of the Memory is listed and no stimulus is. The outputs and the port are those of no
tick yet, all 0 (log entry 7, DESIGN CHOICE), and the draw counter starts at 0 (log entry 4, DESIGN CHOICE). -/
def State.reset : State where
  walkState := .idle
  nextAddr := 0
  mem := []
  stimulus := []
  out := ⟨0, false, false, false, 0, false⟩
  port := ⟨0, false⟩
  draw := 0

/-- At power-on, before any reset tick, both registers are unspecified and `state` may be the unused code (R184, U5); the
index `d` picks the free values. Safe: log entry 5. -/
def State.powerOn (d : Nat) : State :=
  { State.reset with
    walkState := Config.powerOnWalkState d
    nextAddr := Config.powerOnNextAddr d
    draw := d }

end Sys2Proof.Machine
end

