-- ==== Sys2Proof/Machine/Operands.lean ====
section
/-! DEFINITION. The operands of every operation: the Address Decoder (40_address_decoder.md), the fields of a table entry
(R61, R62), and the three addresses assembled from fields (R66, R67, R68). -/

namespace Sys2Proof.Machine

/-- `l1_index = virtual_addr[31:22]` (R81). -/
def l1Index (va : Addr) : BitVec 10 := va.extractLsb' 22 10

/-- `l2_index = virtual_addr[21:12]` (R82). -/
def l2Index (va : Addr) : BitVec 10 := va.extractLsb' 12 10

/-- `page_offset = virtual_addr[11:0]` (R83). -/
def pageOffset (va : Addr) : BitVec 12 := va.extractLsb' 0 12

/-- The Address Decoder: `decode(va) = (va[31:22], va[21:12], va[11:0])` (R80). -/
def decodeAddr (va : Addr) : BitVec 10 × BitVec 10 × BitVec 12 := (l1Index va, l2Index va, pageOffset va)

/-- Entry bit 31, `valid`, at either level (R61, R62). -/
def entryValid (e : Word) : Bool := e.getLsbD 31

/-- Entry bit 30, `dirty`, at either level (R61, R62). -/
def entryDirty (e : Word) : Bool := e.getLsbD 30

/-- Entry bit 29, `referenced`, at either level (R61, R62). -/
def entryReferenced (e : Word) : Bool := e.getLsbD 29

/-- Entry bit 28, `writable`, of a leaf entry (R62). -/
def entryWritable (e : Word) : Bool := e.getLsbD 28

/-- Entry bit 27, `readable`, of a leaf entry (R62). -/
def entryReadable (e : Word) : Bool := e.getLsbD 27

/-- Entry bits 21 to 0, the next-table base of a level-1 entry (R61). -/
def entryNextBase (e : Word) : BitVec 22 := e.extractLsb' 0 22

/-- Entry bits 19 to 0, the frame number of a leaf entry (R62). -/
def entryFrame (e : Word) : BitVec 20 := e.extractLsb' 0 20

/-- The base the root-table addresses are formed with (R25). -/
def rootBase : BitVec 22 := Config.base

/-- Root-table fetch address `concat(BASE, l1_index)` (R66). -/
def rootFetchAddr (l1 : BitVec 10) : Addr := rootBase ++ l1

/-- Leaf-table fetch address `concat(e1[21:0], l2_index)` (R67). -/
def leafFetchAddr (e : Word) (l2 : BitVec 10) : Addr := entryNextBase e ++ l2

/-- Physical address `concat(e2[19:0], page_offset)` (R68). -/
def physAddr (e : Word) (off : BitVec 12) : Addr := entryFrame e ++ off

end Sys2Proof.Machine
end

