-- ==== Sys2Proof/Machine/Flags.lean ====
section
/-! DEFINITION. The status-like signals of a tick, recomputed afresh in each (R31): the Table-Entry Interpreter
(42_entry_interpreter.md) and the Error/Output Resolver (43_error_output_resolver.md). -/

namespace Sys2Proof.Machine

/-- The PTW is busy: `state` is `LEVEL1` or `LEVEL2`. `mem_ren` is this signal, `reset` or not (R29,
decision D15). The unused state value is not busy (R29's "exactly"). UNVERIFIED, safe: log entry 13. -/
def isBusy : WalkState → Bool
  | .idle => false
  | .level1 => true
  | .level2 => true
  | .unused3 => false

/-- `page_fault = ¬e[31]` at `LEVEL1` and `LEVEL2`, and 0 otherwise (R97, decision D17). Log entry 14. -/
def pageFault (ws : WalkState) (e : Word) : Bool := isBusy ws && !entryValid e

/-! ### The error code (R65): 0, PAGE_FAULT 1, READ_VIOLATION 2, WRITE_VIOLATION 4 -/

/-- No error. -/
def codeNone : BitVec 3 := 0
/-- `PAGE_FAULT`. -/
def codePageFault : BitVec 3 := 1
/-- `READ_VIOLATION`. -/
def codeReadViolation : BitVec 3 := 2
/-- `WRITE_VIOLATION`. -/
def codeWriteViolation : BitVec 3 := 4

/-- The code seeded by `page_fault` alone (R127, the first line of R128). -/
def pageFaultCode (pf : Bool) : BitVec 3 := if pf then codePageFault else codeNone

/-- The permission overrides of R128, applied to the code so far: each replaces the whole value. -/
def permissionOverride (readable writable : Bool) (rt : RequestType) (code : BitVec 3) : BitVec 3 :=
  let code := if rt = .read ∧ readable = false then codeReadViolation else code
  if rt = .write ∧ writable = false then codeWriteViolation else code

/-- The `LEVEL2` code under either order of decision D1 (R128, and the rejected order of R129). -/
def leafCodeUnder (p : LeafPriority) (pf readable writable : Bool) (rt : RequestType) : BitVec 3 :=
  match p with
  | .permOverFault => permissionOverride readable writable rt (pageFaultCode pf)
  | .faultOverPerm => if pf then codePageFault else permissionOverride readable writable rt codeNone

/-- The `LEVEL2` code (R128), in the order the spec keeps. -/
def leafCode (pf readable writable : Bool) (rt : RequestType) : BitVec 3 :=
  leafCodeUnder Config.leafPriority pf readable writable rt

/-! ### The Table-Entry Interpreter -/

/-- What the interpreter emits in one tick (R110). A signal it does not compute in a stage is `none` there, or 0 where
R114 says it defaults to 0. -/
structure Interpretation where
  valid : Bool
  dirty : Bool
  referenced : Bool
  pageFault : Bool
  /-- `writable`, `readable`: derived at `LEVEL2` only (R113) -/
  permissions : Option (Bool × Bool)
  /-- the candidate fetch address: computed at `LEVEL1` only (R112) -/
  nextFetch : Option Addr
  /-- computed at `LEVEL2` only (R113, R115) -/
  physicalAddr : Option Addr
  deriving DecidableEq, Repr

/-- `interpret(state, e, l2_index, page_offset)` (R110 to R114); nothing for the unused state value (R101). -/
def interpret (ws : WalkState) (e : Word) (l2 : BitVec 10) (off : BitVec 12) : Option Interpretation :=
  match ws with
  | .idle => some ⟨false, false, false, false, none, none, none⟩
  | .level1 =>
    some ⟨entryValid e, entryDirty e, entryReferenced e, !entryValid e, none, some (leafFetchAddr e l2), none⟩
  | .level2 =>
    some ⟨entryValid e, entryDirty e, entryReferenced e, !entryValid e,
      some (entryWritable e, entryReadable e), none, some (physAddr e off)⟩
  | .unused3 => none

/-! ### The Error/Output Resolver -/

/-- `error_code` and `finished_walk` of a tick from the interpreter's signals and the request type (R125 to R128, R132). -/
def resolve (ws : WalkState) (pf : Bool) (permissions : Option (Bool × Bool)) (rt : RequestType) :
    Option (BitVec 3 × Bool) :=
  match ws, permissions with
  | .idle, _ => some (codeNone, false)
  | .level1, _ => some (pageFaultCode pf, false)
  | .level2, some (writable, readable) => some (leafCode pf readable writable rt, true)
  | .level2, none => none
  | .unused3, _ => none

end Sys2Proof.Machine
end

