-- ==== Sys2Proof/Machine/Ops.lean ====
section
/-! DEFINITION. The named operations over the Memory, the registers and the wires: reading and populating the Memory, the
signals of the tick, the free values, the clock edge that commits a tick, and the passage to the next tick. The PTW takes
no exception: an error is a value of `error_code` for one tick (R160, R163), so there is no entry and no return here. -/

namespace Sys2Proof.Machine

/-! ### The Memory -/

/-- What an address that is not listed reads as (R46, decision D11). -/
def Memory.unlisted : Word := Config.unpopulatedWord

/-- The canonical form from address `lo` up: addresses strictly rising and below 2^32, no word equal to `unlisted`. -/
def Memory.wfFrom : Nat → Memory → Bool
  | _, [] => true
  | lo, (k, w) :: m => decide (lo ≤ k) && decide (k < 2 ^ 32) && (w != Memory.unlisted) && Memory.wfFrom (k + 1) m

/-- The canonical form of the Memory: two memories in this form that read alike are equal. -/
def Memory.wf (m : Memory) : Bool := Memory.wfFrom 0 m

/-- The word at a numeric address. -/
def Memory.lookup : Memory → Nat → Word
  | [], _ => Memory.unlisted
  | (k, w) :: m, a => if k = a then w else Memory.lookup m a

/-- `MemRead(a)`: the 32-bit word the Memory holds at the 32-bit address `a`, total and without side effect (R40, R45). -/
def Memory.read (m : Memory) (a : Addr) : Word := m.lookup a.toNat

/-- Replaces the word at a numeric address and keeps the canonical form. -/
def Memory.put : Memory → Nat → Word → Memory
  | [], a, w => if w = Memory.unlisted then [] else [(a, w)]
  | (k, x) :: m, a, w =>
    if a < k then (if w = Memory.unlisted then (k, x) :: m else (a, w) :: (k, x) :: m)
    else if a = k then (if w = Memory.unlisted then m else (a, w) :: m)
    else (k, x) :: Memory.put m a w

/-- Another agent populates one address (R30, R57). The PTW itself never writes (R7, R43): no operation calls this. -/
def Memory.write (m : Memory) (a : Addr) (w : Word) : Memory := m.put a.toNat w

/-- Other agents populate several addresses, in order. -/
def Memory.poke : Memory → List (Addr × Word) → Memory
  | m, [] => m
  | m, (a, w) :: ps => (m.write a w).poke ps

/-! ### The wires of the tick -/

/-- The stimulus of this tick: the first of the trace, or a free one past its end (log entry 6). -/
def State.now (s : State) : Stimulus :=
  match s.stimulus with
  | [] => ⟨Config.freeInputs s.draw, Config.freePokes s.draw⟩
  | st :: _ => st

/-- The four inputs of this tick (R27). -/
def State.inputs (s : State) : Inputs := s.now.inputs

/-- `mem_rdata = MemRead(next_addr)`, the word of this tick (R29, R44). It is the fetched entry `e` when the PTW is busy. -/
def State.rdata (s : State) : Word := s.mem.read s.nextAddr

/-- All the signals of this tick. -/
def State.signals (s : State) : TickSignals := ⟨s.walkState, s.nextAddr, s.inputs, s.rdata⟩

/-- The memory port in this tick: `mem_addr = next_addr`, `mem_ren = 1` exactly when the PTW is busy (R29). -/
def State.portNow (s : State) : MemPort := ⟨s.nextAddr, isBusy s.walkState⟩

/-- The control word of this tick (R69). -/
def State.controlWord (s : State) : BitVec 5 :=
  packControlWord s.inputs.reset s.walkState s.inputs.newRequest (entryValid s.rdata)

/-- The operation this tick performs: the one its control word selects (R90). -/
def State.selected (s : State) : Instr := decode s.controlWord

/-! ### The free values of the tick -/

/-- `physical_addr` where the spec gives it no value (R115, R182). -/
def State.freePhysicalAddr (s : State) : Addr := Config.freePhysicalAddr s.draw s.signals

/-- `next_addr'` of a reset tick (R91). -/
def State.freeNextAddr (s : State) : Addr := Config.freeNextAddr s.draw s.signals

/-- The six outputs of a reset tick, all unspecified (R182). -/
def State.freeOutputs (s : State) : Outputs where
  physicalAddr := s.freePhysicalAddr
  valid := Config.freeValid s.draw s.signals
  dirty := Config.freeDirty s.draw s.signals
  referenced := Config.freeReferenced s.draw s.signals
  errorCode := Config.freeErrorCode s.draw s.signals
  finishedWalk := Config.freeFinishedWalk s.draw s.signals

/-- The outputs of an idle tick: "all status outputs default to 0", `physical_addr` unspecified (R114, R115). -/
def State.idleOutputs (s : State) : Outputs := ⟨s.freePhysicalAddr, false, false, false, codeNone, false⟩

/-! ### The clock edge -/

/-- The edge that ends the tick: both registers take their next values at once (R15), and the tick's outputs and port
signals are kept for the observer. -/
def State.commit (s : State) (ws : WalkState) (na : Addr) (o : Outputs) : State :=
  { s with walkState := ws, nextAddr := na, out := o, port := s.portNow }

/-- The passage to the next tick: the tick's stimulus is used up, the other agents' words are in the Memory (R54, R57),
and the next tick draws fresh free values. -/
def State.advance (s : State) : State :=
  { s with mem := s.mem.poke s.now.pokes, stimulus := s.stimulus.tail, draw := s.draw + 1 }

/-! ### Placing an operation -/

/-- An entry with its `valid` bit set to `v` and every other bit kept. -/
def setEntryValid (e : Word) (v : Bool) : Word := BitVec.ofBool v ++ e.extractLsb' 0 31

/-- The state made to perform the operation of the control word `cw` next: `state` and the two input bits of R69 are set,
and bit 31 of the word at `next_addr`; every other register, input, bit and pending stimulus stays. -/
def State.placeControlWord (s : State) (cw : BitVec 5) : State :=
  { s with
    walkState := cwState cw
    mem := s.mem.write s.nextAddr (setEntryValid s.rdata (cwEntryValid cw))
    stimulus :=
      { s.now with inputs := { s.inputs with reset := cwReset cw, newRequest := cwNewRequest cw } } :: s.stimulus.tail }

end Sys2Proof.Machine
end

