-- ==== Sys2Proof/Machine/Controller.lean ====
section
/-! DEFINITION. The Walk Controller's operations (41_walk_controller.md), one meaning each, every register and output of
the tick given as the operation's own rule gives it. A meaning does not look at its control word's free letters: the rules
name no use of them beyond selecting the operation. DEDUCED, safe: log entry 12. -/

namespace Sys2Proof.Machine

/-- `OP_RESET` (R91, R181, R182): `state' = IDLE`; `next_addr'` and all six outputs are free values. -/
def execOpReset (s : State) : Host.Outcome State Fault Refusal :=
  .next (s.commit .idle s.freeNextAddr s.freeOutputs)

/-- `OP_IDLE_WAIT` (R92): the root fetch address is "recomputed every idle cycle". -/
def execOpIdleWait (s : State) : Host.Outcome State Fault Refusal :=
  .next (s.commit .idle (rootFetchAddr (l1Index s.inputs.virtualAddr)) s.idleOutputs)

/-- `OP_IDLE_START` (R93): as `OP_IDLE_WAIT`, but `state' = LEVEL1`. -/
def execOpIdleStart (s : State) : Host.Outcome State Fault Refusal :=
  .next (s.commit .level1 (rootFetchAddr (l1Index s.inputs.virtualAddr)) s.idleOutputs)

/-- `OP_L1_FAULT` (R94): PAGE_FAULT with the entry's dirty and referenced bits; `next_addr` keeps its value (D4;
log entry 11, UNVERIFIED). -/
def execOpL1Fault (s : State) : Host.Outcome State Fault Refusal :=
  .next (s.commit .idle s.nextAddr
    ⟨s.freePhysicalAddr, false, entryDirty s.rdata, entryReferenced s.rdata, codePageFault, false⟩)

/-- `OP_L1_DESCEND` (R95): issues the leaf fetch with this tick's `l2_index`. -/
def execOpL1Descend (s : State) : Host.Outcome State Fault Refusal :=
  .next (s.commit .level2 (leafFetchAddr s.rdata (l2Index s.inputs.virtualAddr))
    ⟨s.freePhysicalAddr, true, entryDirty s.rdata, entryReferenced s.rdata, codeNone, false⟩)

/-- `OP_L2_FINISH` (R96): drives the physical address "regardless of fault/permission outcome" and the code of R128. -/
def execOpL2Finish (s : State) : Host.Outcome State Fault Refusal :=
  .next (s.commit .idle s.nextAddr
    ⟨physAddr s.rdata (pageOffset s.inputs.virtualAddr), entryValid s.rdata, entryDirty s.rdata,
      entryReferenced s.rdata,
      leafCode (!entryValid s.rdata) (entryReadable s.rdata) (entryWritable s.rdata) s.inputs.requestType, true⟩)

/-- `RESERVED_STATE3` (R101): "a model gives it no meaning (it is a fault or a refusal of the model, not a behaviour of
the PTW) and must not choose values". -/
def execReservedState3 (_s : State) : Host.Outcome State Fault Refusal :=
  .fault .unusedState3

end Sys2Proof.Machine
end

