-- ==== Sys2Proof/Machine/Dispatch.lean ====
section
/-! DEFINITION. One arm per operation. -/

namespace Sys2Proof.Machine

/-- The meaning of each operation in a tick that performs it. -/
def exec (i : Instr) (s : State) : Host.Outcome State Fault Refusal :=
  match i with
  | .opReset _ _ _ => Sys2Proof.Machine.execOpReset s
  | .opIdleWait _ => Sys2Proof.Machine.execOpIdleWait s
  | .opIdleStart _ => Sys2Proof.Machine.execOpIdleStart s
  | .opL1Fault _ => Sys2Proof.Machine.execOpL1Fault s
  | .opL1Descend _ => Sys2Proof.Machine.execOpL1Descend s
  | .opL2Finish _ _ => Sys2Proof.Machine.execOpL2Finish s
  | .reservedState3 _ _ => Sys2Proof.Machine.execReservedState3 s

end Sys2Proof.Machine
end

