-- ==== Sys2Proof/Machine/Step.lean ====
section
/-! DEFINITION. One clock tick: the operation the control word selects (R90), then the passage to the next tick. -/

namespace Sys2Proof.Machine

/-- One tick of the PTW (R90, R140). -/
def step (s : State) : Host.Outcome State Fault Refusal :=
  match exec s.selected s with
  | .next t => .next t.advance
  | .fault f => .fault f
  | .refused r => .refused r

/-- The state that performs the operation of table word `w` in its very next tick. The PTW fetches no instruction (R9):
this sets the register, the two input bits and the memory bit that the control word is made of (R69). Log entry 8. -/
def State.withFetchWord (s : State) (_nbits w : Nat) : State := s.placeControlWord (BitVec.ofNat 5 w)

end Sys2Proof.Machine
end

