-- ==== Sys2Proof/Machine/Tick.lean ====
section
/-! DEFINITION. The composed tick of R140, from the four pieces of R3 and nothing else: Address Decoder, Table-Entry
Interpreter, Error/Output Resolver, and the Walk Controller as the transition table of R90. The step does not call it: it
is the spec's second account of the same machine, and that the two agree is a statement for the provers. -/

namespace Sys2Proof.Machine

/-- What one tick yields: the registers of the next tick, and the outputs and the port of this one (R4). -/
structure TickResult where
  walkState : WalkState
  nextAddr : Addr
  out : Outputs
  port : MemPort
  deriving DecidableEq, Repr

/-- The transition table without its reset row (R90): the next state, and the next fetch address, `none` where the
table's side-effect column has "—" and the register keeps its value (D4). -/
def transition (ws : WalkState) (newRequest pf : Bool) (l1 : BitVec 10) (nextFetch : Option Addr) :
    Option (WalkState × Option Addr) :=
  match ws with
  | .idle => some (if newRequest then .level1 else .idle, some (rootFetchAddr l1))
  | .level1 => if pf then some (.idle, none) else some (.level2, nextFetch)
  | .level2 => some (.idle, none)
  | .unused3 => none

/-- One tick from the signals of the tick alone (R140). `xNext` and `xOut` are what the unspecified cells, marked `X`
there, are filled with; no value is given for the unused state value with `reset = 0` (R101). -/
def tick (g : TickSignals) (xNext : Addr) (xOut : Outputs) : Option TickResult :=
  let port : MemPort := ⟨g.nextAddr, isBusy g.walkState⟩
  match decodeAddr g.inputs.virtualAddr with
  | (l1, l2, off) =>
    if g.inputs.reset then some ⟨.idle, xNext, xOut, port⟩
    else
      match interpret g.walkState g.rdata l2 off with
      | none => none
      | some t =>
        match resolve g.walkState t.pageFault t.permissions g.inputs.requestType,
          transition g.walkState g.inputs.newRequest t.pageFault l1 t.nextFetch with
        | some (code, finished), some (ws, na) =>
          some ⟨ws, na.getD g.nextAddr,
            ⟨t.physicalAddr.getD xOut.physicalAddr, t.valid, t.dirty, t.referenced, code, finished⟩, port⟩
        | _, _ => none

end Sys2Proof.Machine
end

