-- ==== Sys2Proof/Machine/Walk.lean ====
section
/-! DEFINITION. Whole walks: the translation a walk computes (R50), and the trace notation and its pseudo-operations
(R75, R76) as a start state and stimulus lists. -/

namespace Sys2Proof.Machine

/-- How a walk that no reset interrupts ends (R50, R196). -/
inductive WalkResult where
  /-- in the second tick: `error_code = 1`, `finished_walk = 0` -/
  | l1Fault (dirty referenced : Bool)
  /-- in the third tick: `finished_walk = 1` -/
  | finished (physicalAddr : Addr) (valid dirty referenced : Bool) (errorCode : BitVec 3)
  deriving DecidableEq, Repr

/-- The translation of `va` for a request `rt` over a Memory that does not change during the walk (R50). -/
def walkTranslation (m : Memory) (va : Addr) (rt : RequestType) : WalkResult :=
  let e1 := m.read (rootFetchAddr (l1Index va))
  if entryValid e1 then
    let e2 := m.read (leafFetchAddr e1 (l2Index va))
    .finished (physAddr e2 (pageOffset va)) (entryValid e2) (entryDirty e2) (entryReferenced e2)
      (leafCode (!entryValid e2) (entryReadable e2) (entryWritable e2) rt)
  else .l1Fault (entryDirty e1) (entryReferenced e1)

/-- The trace line `TICK va=<va> nr=<nr> rst=<rst> rt=<rt>` (R75), with no change to the Memory. -/
def Stimulus.tick (va : Addr) (nr rst : Bool) (rt : RequestType) : Stimulus := ⟨⟨va, nr, rst, rt⟩, []⟩

/-- The start of a trace (R75): `MEM` populates addresses, every other one holding the unlisted word, `INIT` gives the two
registers, and the `TICK` lines are the stimulus. -/
def traceState (image : List (Addr × Word)) (ws : WalkState) (na : Addr) (ticks : List Stimulus) : State :=
  { State.reset with walkState := ws, nextAddr := na, mem := Memory.poke [] image, stimulus := ticks }

/-- `RESET`: one reset tick; "the other inputs do not matter", so they are arguments (R76). -/
def traceReset (va : Addr) (nr : Bool) (rt : RequestType) : List Stimulus := [Stimulus.tick va nr true rt]

/-- `WALK va rt`: three ticks, the request in the first (R76). -/
def traceWalk (va : Addr) (rt : RequestType) : List Stimulus :=
  [Stimulus.tick va true false rt, Stimulus.tick va false false rt, Stimulus.tick va false false rt]

/-- `IDLE va` (R76). -/
def traceIdle (va : Addr) : List Stimulus := [Stimulus.tick va false false .read]

end Sys2Proof.Machine
end

