-- ==== Sys2Proof/Safety.lean ====
section
/-! DEFINITION. The terms claims about the machine are stated in: the invariant of a run that begins with a reset tick,
and what it means that two ticks agree on every value the spec specifies. -/

namespace Sys2Proof.Machine

/-- What every tick of a run that begins with a reset tick finds (R35, R37, R66): the Memory in canonical form, a legal
state value, and at `LEVEL1` a fetch address inside the root table. -/
abbrev State.Inv (s : State) : Prop :=
  s.mem.wf = true ∧ s.walkState ≠ .unused3 ∧
    (s.walkState = .level1 → s.nextAddr.extractLsb' 10 22 = Config.base)

/-- The state with the inputs of its present tick replaced; the rest of the stimulus stays. -/
def State.withInputs (s : State) (i : Inputs) : State :=
  { s with stimulus := { s.now with inputs := i } :: s.stimulus.tail }

/-- The state with the word its present tick reads replaced in the Memory. -/
def State.withEntry (s : State) (e : Word) : State :=
  { s with mem := s.mem.write s.nextAddr e }

/-- The results `t` and `t'` of two ticks agree on every value the spec specifies: in every tick, a reset tick too, the next
`state` (R91), whether a read was presented on the memory port, and its address if one was (R29; that a read is presented
in a reset tick too is the spec's decision D15, log entry 13); without reset both registers, the status outputs, and
`physical_addr` when `finished_walk = 1` (R115). The cells marked `X` are not compared (R14), nor is `mem_addr` while
`mem_ren = 0`, which "the Memory must ignore" (R33). -/
def SameSpecified (reset : Bool) (t t' : State) : Prop :=
  t.walkState = t'.walkState ∧
    t.port.memRen = t'.port.memRen ∧ (t.port.memRen = true → t.port.memAddr = t'.port.memAddr) ∧
    (reset = false →
      t.nextAddr = t'.nextAddr ∧ t.out.valid = t'.out.valid ∧ t.out.dirty = t'.out.dirty ∧
        t.out.referenced = t'.out.referenced ∧ t.out.errorCode = t'.out.errorCode ∧
        t.out.finishedWalk = t'.out.finishedWalk ∧
        (t.out.finishedWalk = true → t.out.physicalAddr = t'.out.physicalAddr))

/-- One tick of `s` and one tick of `s'` end alike and agree on every specified value. -/
def TicksAgree (s s' : State) : Prop :=
  match step s, step s' with
  | .next t, .next t' => SameSpecified s.inputs.reset t t'
  | .fault f, .fault f' => f = f'
  | .refused r, .refused r' => r = r'
  | _, _ => False

/-- `u` is `s` or comes after it by steps, and in between no other agent put a word at address `a`. -/
inductive ReachesUntouched (a : Addr) (s : State) : State → Prop where
  | here : ReachesUntouched a s s
  | later {t u : State} (before : ReachesUntouched a s t) (untouched : ∀ p ∈ t.now.pokes, p.1 ≠ a)
      (next : step t = .next u) : ReachesUntouched a s u

end Sys2Proof.Machine
end

