-- ==== Sys2Proof/Certificates/Slice0/Obligations.lean ====
section
/-! DEFINITION. The statements for the provers. Bit fields are written out (`e.getLsbD 31`, `va.extractLsb' 22 10`), not
named by the model's own functions, wherever a rule gives a value. -/

open Sys2Proof Sys2Proof.Machine

/-! ### Encoding and selection -/

/-- R69, R70: decoding undoes encoding, with every free letter at every value; each control word has one meaning; and the
opcode table's numbering reads the same operation. -/
def Obligations.ControlWordDecodeEncodeRoundTrip : Prop :=
  (∀ i : Instr, decode (encode i) = i) ∧ (∀ cw : BitVec 5, encode (decode cw) = cw) ∧
    ∀ i : Instr, decodeTableWord 8 (encode i).toNat = some i

/-- R70: the `match` and `mask` of every row against the operation the decoder names. -/
def Obligations.OperationMapMatchAndMask : Prop :=
  ∀ cw : BitVec 5,
    ((decode cw).mnemonic = "OP_RESET" ↔ cw &&& 0x10 = 0x10) ∧
    ((decode cw).mnemonic = "OP_IDLE_WAIT" ↔ cw &&& 0x1E = 0x00) ∧
    ((decode cw).mnemonic = "OP_IDLE_START" ↔ cw &&& 0x1E = 0x02) ∧
    ((decode cw).mnemonic = "OP_L1_FAULT" ↔ cw &&& 0x1D = 0x04) ∧
    ((decode cw).mnemonic = "OP_L1_DESCEND" ↔ cw &&& 0x1D = 0x05) ∧
    ((decode cw).mnemonic = "OP_L2_FINISH" ↔ cw &&& 0x1C = 0x08) ∧
    ((decode cw).mnemonic = "RESERVED_STATE3" ↔ cw &&& 0x1C = 0x0C)

/-- R69, R70: control words of the vectors of 95_test_vectors.md 2.4 and their operations. The last clause, that a byte with
a bit above bit 4 is no control word, is the model's choice (log entry 8, DESIGN CHOICE), not a rule's. -/
def Obligations.ControlWordsOfTheSpecDecode : Prop :=
  decode 0b00000 = .opIdleWait false ∧ decode 0b00011 = .opIdleStart true ∧
    decode 0b00101 = .opL1Descend false ∧ decode 0b00111 = .opL1Descend true ∧
    decode 0b00100 = .opL1Fault false ∧ decode 0b00110 = .opL1Fault true ∧
    decode 0b01001 = .opL2Finish false true ∧ decode 0b01010 = .opL2Finish true false ∧
    decode 0b10101 = .opReset .level1 false true ∧ decode 0b11001 = .opReset .level2 false true ∧
    decode 0b01100 = .reservedState3 false false ∧
    decodeByte 0b00100101 = .error .bitsAboveControlWord

/-- R69: what each bit of a tick's control word is. -/
def Obligations.ControlWordBits : Prop :=
  ∀ s : State,
    s.controlWord.getLsbD 4 = s.inputs.reset ∧
    s.controlWord.extractLsb' 2 2 =
      (match s.walkState with | .idle => 0b00 | .level1 => 0b01 | .level2 => 0b10 | .unused3 => 0b11) ∧
    s.controlWord.getLsbD 1 = s.inputs.newRequest ∧
    s.controlWord.getLsbD 0 = (s.mem.read s.nextAddr).getLsbD 31

/-- R90: the row of the transition table, with its condition, that a tick's operation comes from. -/
def Obligations.SelectionFollowsTransitionTable : Prop :=
  ∀ s : State,
    (s.inputs.reset = true → ∃ n v, s.selected = .opReset s.walkState n v) ∧
    (s.inputs.reset = false → s.walkState = .idle → s.inputs.newRequest = true → ∃ v, s.selected = .opIdleStart v) ∧
    (s.inputs.reset = false → s.walkState = .idle → s.inputs.newRequest = false → ∃ v, s.selected = .opIdleWait v) ∧
    (s.inputs.reset = false → s.walkState = .level1 → (s.mem.read s.nextAddr).getLsbD 31 = false →
      ∃ n, s.selected = .opL1Fault n) ∧
    (s.inputs.reset = false → s.walkState = .level1 → (s.mem.read s.nextAddr).getLsbD 31 = true →
      ∃ n, s.selected = .opL1Descend n) ∧
    (s.inputs.reset = false → s.walkState = .level2 → ∃ n v, s.selected = .opL2Finish n v) ∧
    (s.inputs.reset = false → s.walkState = .unused3 → ∃ n v, s.selected = .reservedState3 n v)

/-- R90: a step runs the operation its control word decodes to. What the step adds around it is the model's choice and no
rule's: the words other agents put in the Memory appear and the head of the stimulus trace is used up (log entry 6, DESIGN
CHOICE), and the counter of free values goes up by one (log entry 4, DESIGN CHOICE). -/
def Obligations.StepRunsTheSelectedOperation : Prop :=
  ∀ (s : State) (i : Instr), decode s.controlWord = i →
    (∀ t, exec i s = .next t →
      step s = .next { t with
        mem := t.mem.poke s.now.pokes, stimulus := s.stimulus.tail, draw := s.draw + 1 }) ∧
    (∀ f, exec i s = .fault f → step s = .fault f) ∧
    (∀ r, exec i s ≠ .refused r)

/-! ### The result of every operation, with its frame: every field not named is unchanged

`p` is what the port drove: for each rule, what its Memory sentence says of the read in a tick of its own stage. -/

/-- R91: `next_addr'` and the six outputs are whatever values `x` and `o` the model leaves free. That the read is presented
in a reset tick too is the spec's decision D15. -/
def Obligations.ResetOperationResult : Prop :=
  ∀ (ss : WalkState) (n v : Bool) (s : State), ∃ (x : Addr) (o : Outputs) (p : MemPort),
    (s.walkState = .level1 ∨ s.walkState = .level2 → p = ⟨s.nextAddr, true⟩) ∧
    exec (.opReset ss n v) s = .next { s with
      walkState := .idle
      nextAddr := x
      out := o
      port := p }

/-- R92; `x` is the unspecified `physical_addr`. -/
def Obligations.IdleWaitOperationResult : Prop :=
  ∀ (v : Bool) (s : State), ∃ (x : Addr) (p : MemPort),
    (s.walkState = .idle → p.memRen = false) ∧
    exec (.opIdleWait v) s = .next { s with
      walkState := .idle
      nextAddr := (0x3FFBFF : BitVec 22) ++ s.inputs.virtualAddr.extractLsb' 22 10
      out := ⟨x, false, false, false, 0, false⟩
      port := p }

/-- R93; `x` is the unspecified `physical_addr`. -/
def Obligations.IdleStartOperationResult : Prop :=
  ∀ (v : Bool) (s : State), ∃ (x : Addr) (p : MemPort),
    (s.walkState = .idle → p.memRen = false) ∧
    exec (.opIdleStart v) s = .next { s with
      walkState := .level1
      nextAddr := (0x3FFBFF : BitVec 22) ++ s.inputs.virtualAddr.extractLsb' 22 10
      out := ⟨x, false, false, false, 0, false⟩
      port := p }

/-- R94; `x` is the unspecified `physical_addr`. That `next_addr` keeps its value is the spec's decision D4 (log entry 11).
That `valid` is 0 and the code 1 whatever bit 31 of the word is, the constants of R94's pseudocode, is log entry 12
(DEDUCED): a step runs the operation only where bit 31 is 0. -/
def Obligations.Level1FaultOperationResult : Prop :=
  ∀ (n : Bool) (s : State), ∃ (x : Addr) (p : MemPort),
    (s.walkState = .level1 → p = ⟨s.nextAddr, true⟩) ∧
    exec (.opL1Fault n) s = .next { s with
      walkState := .idle
      out := ⟨x, false, (s.mem.read s.nextAddr).getLsbD 30, (s.mem.read s.nextAddr).getLsbD 29, 1, false⟩
      port := p }

/-- R95, R112; `x` is the unspecified `physical_addr`. That `valid` is 1 and the code 0 whatever bit 31 of the word is, the
constants of R95's pseudocode, is log entry 12 (DEDUCED): a step runs the operation only where bit 31 is 1. -/
def Obligations.Level1DescendOperationResult : Prop :=
  ∀ (n : Bool) (s : State), ∃ (x : Addr) (p : MemPort),
    (s.walkState = .level1 → p = ⟨s.nextAddr, true⟩) ∧
    exec (.opL1Descend n) s = .next { s with
      walkState := .level2
      nextAddr := (s.mem.read s.nextAddr).extractLsb' 0 22 ++ s.inputs.virtualAddr.extractLsb' 12 10
      out := ⟨x, true, (s.mem.read s.nextAddr).getLsbD 30, (s.mem.read s.nextAddr).getLsbD 29, 0, false⟩
      port := p }

/-- R96: all six outputs. The permission violation over the page fault is the spec's decision D1 (log entry 10), `next_addr`
keeping its value its decision D4 (log entry 11). -/
def Obligations.Level2FinishOperationResult : Prop :=
  ∀ (n v : Bool) (s : State),
    let e := s.mem.read s.nextAddr
    ∃ p : MemPort,
    (s.walkState = .level2 → p = ⟨s.nextAddr, true⟩) ∧
    exec (.opL2Finish n v) s = .next { s with
      walkState := .idle
      out := ⟨e.extractLsb' 0 20 ++ s.inputs.virtualAddr.extractLsb' 0 12,
        e.getLsbD 31, e.getLsbD 30, e.getLsbD 29,
        (if s.inputs.requestType = .write ∧ e.getLsbD 28 = false then 4
          else if s.inputs.requestType = .read ∧ e.getLsbD 27 = false then 2
          else if e.getLsbD 31 = false then 1 else 0),
        true⟩
      port := p }

/-- R101: the tick has no defined next state and no defined outputs; that the model stops it with a fault is the spec's
decision D5 (log entry 1). -/
def Obligations.ReservedState3Stops : Prop :=
  ∀ (n v : Bool) (s : State), exec (.reservedState3 n v) s = .fault .unusedState3

/-- R70, R71, R101: the well-formed operations are exactly those that complete. That the reserved row never answers a next
state is the spec's decision D5 (log entry 1, DESIGN CHOICE). That the others answer one in every state, whichever
operation the state itself selects, is log entry 12 (DEDUCED). -/
def Obligations.WellFormedOperationsComplete : Prop :=
  ∀ (i : Instr) (s : State), (∃ t, exec i s = .next t) ↔ i.wellFormed = true

/-- No operation stores: every address reads as before, and the surroundings and the draw counter stay. -/
def Obligations.OperationsStoreNothing : Prop :=
  ∀ (i : Instr) (s t : State), exec i s = .next t →
    (∀ a : Addr, t.mem.read a = s.mem.read a) ∧ t.mem = s.mem ∧ t.stimulus = s.stimulus ∧ t.draw = s.draw

/-! ### The tick as a whole -/

/-- R140, R3: a step is the composed tick of the four pieces, its `X` cells filled with some values; where the composed
tick gives no result, and only there, the step faults. -/
def Obligations.StepRefinesComposedTick : Prop :=
  ∀ s : State,
    (∀ t, step s = .next t → ∃ (x : Addr) (o : Outputs),
      tick s.signals x o = some ⟨t.walkState, t.nextAddr, t.out, t.port⟩) ∧
    (∀ f, step s = .fault f → ∀ (x : Addr) (o : Outputs), tick s.signals x o = none) ∧
    (∀ r, step s ≠ .refused r)

/-- Every step keeps the invariant: canonical Memory, legal state value, root-table fetch address at `LEVEL1`. -/
def Obligations.StepKeepsLegalState : Prop :=
  ∀ s t : State, s.Inv → step s = .next t → t.Inv

/-- The state after reset meets the invariant. -/
def Obligations.ResetStateIsLegal : Prop :=
  State.reset.Inv

/-- R32, R25: what reset leaves of what the spec specifies. -/
def Obligations.ResetLeavesIdle : Prop :=
  State.reset.walkState = .idle ∧ Config.base = 0x3FFBFF

/-- R143: the tick is total on the three legal states, and the PTW is idle after at most two further ticks. -/
def Obligations.AlwaysStepsAndReturnsToIdle : Prop :=
  ∀ s : State, s.walkState ≠ .unused3 →
    ∃ t, step s = .next t ∧ (s.walkState = .idle ∨ t.walkState = .idle ∨ ∃ u, step t = .next u ∧ u.walkState = .idle)

/-- R101, R71, R35: the machine stops exactly at the unused state value without reset, with one fault; it never refuses. -/
def Obligations.StopsExactlyAtUnusedState : Prop :=
  ∀ s : State,
    (∀ f, step s = .fault f ↔ s.walkState = .unused3 ∧ s.inputs.reset = false ∧ f = .unusedState3) ∧
    (∀ r, step s ≠ .refused r)

/-- R99: the successor relation on the legal values of `state`, exactly: each listed pair occurs and no other does. -/
def Obligations.SuccessorRelationExact : Prop :=
  ∀ a b : WalkState, a ≠ .unused3 →
    ((∃ s t : State, s.walkState = a ∧ step s = .next t ∧ t.walkState = b) ↔
      (a, b) ∈ [(WalkState.idle, WalkState.idle), (.idle, .level1), (.level1, .level2), (.level1, .idle),
        (.level2, .idle)])

/-- R148: reset from any state, the unused value and every input among them. -/
def Obligations.ResetForcesIdle : Prop :=
  ∀ s : State, s.inputs.reset = true → ∃ t, step s = .next t ∧ t.walkState = .idle

/-- R37: where a `LEVEL1` or a `LEVEL2` tick can come from, and the fetch address it finds. -/
def Obligations.BusyTickHistory : Prop :=
  ∀ s t : State, step s = .next t →
    t.walkState ≠ .unused3 ∧
    (t.walkState = .level1 → s.walkState = .idle ∧ s.inputs.reset = false ∧ s.inputs.newRequest = true ∧
      t.nextAddr = (0x3FFBFF : BitVec 22) ++ s.inputs.virtualAddr.extractLsb' 22 10) ∧
    (t.walkState = .level2 → s.walkState = .level1 ∧ s.inputs.reset = false ∧
      (s.mem.read s.nextAddr).getLsbD 31 = true ∧
      t.nextAddr = (s.mem.read s.nextAddr).extractLsb' 0 22 ++ s.inputs.virtualAddr.extractLsb' 12 10)

/-- R185, R184: one reset tick is enough, whatever the registers held before it, and power-on is such a state. -/
def Obligations.OneResetTickIsEnough : Prop :=
  (∀ s : State, s.mem.wf = true → s.inputs.reset = true → ∃ t, step s = .next t ∧ t.Inv) ∧
    ∀ d : Nat, (State.powerOn d).mem.wf = true

/-- R183: the first tick after a reset tick, with `reset = 0`, is an idle tick. -/
def Obligations.FirstTickAfterReset : Prop :=
  ∀ s t : State, s.inputs.reset = true → step s = .next t → t.inputs.reset = false →
    ∃ u, step t = .next u ∧ u.out.valid = false ∧ u.out.dirty = false ∧ u.out.referenced = false ∧
      u.out.errorCode = 0 ∧ u.out.finishedWalk = false ∧
      u.nextAddr = (0x3FFBFF : BitVec 22) ++ t.inputs.virtualAddr.extractLsb' 22 10

/-! ### What a tick does and does not depend on -/

/-- R149: in a busy tick `new_request` changes nothing specified. Like the six statements after it, it compares the memory
port too, where the read in a reset tick is the spec's decision D15 (log entry 13). -/
def Obligations.BusyIgnoresNewRequest : Prop :=
  ∀ (s : State) (i : Inputs), s.walkState ≠ .idle →
    TicksAgree (s.withInputs { i with newRequest := false }) (s.withInputs { i with newRequest := true })

/-- R187, decision D18: `request_type` matters in the `LEVEL2` tick only. -/
def Obligations.RequestTypeSampledAtLevel2Only : Prop :=
  ∀ (s : State) (i : Inputs), s.walkState ≠ .level2 →
    TicksAgree (s.withInputs { i with requestType := .read }) (s.withInputs { i with requestType := .write })

/-- R87: in each stage only that stage's field of `virtual_addr` matters. -/
def Obligations.EachStageUsesOneAddressField : Prop :=
  ∀ (s : State) (i : Inputs) (va va' : Addr),
    (s.walkState = .idle → va.extractLsb' 22 10 = va'.extractLsb' 22 10 →
      TicksAgree (s.withInputs { i with virtualAddr := va }) (s.withInputs { i with virtualAddr := va' })) ∧
    (s.walkState = .level1 → va.extractLsb' 12 10 = va'.extractLsb' 12 10 →
      TicksAgree (s.withInputs { i with virtualAddr := va }) (s.withInputs { i with virtualAddr := va' })) ∧
    (s.walkState = .level2 → va.extractLsb' 0 12 = va'.extractLsb' 0 12 →
      TicksAgree (s.withInputs { i with virtualAddr := va }) (s.withInputs { i with virtualAddr := va' }))

/-- R72: two entries that differ only in bits 28 to 22 at level 1, or 26 to 20 at the leaf, are indistinguishable. -/
def Obligations.IgnoredEntryBitsHaveNoEffect : Prop :=
  ∀ (s : State) (e e' : Word), s.mem.wf = true →
    (s.walkState = .level1 → e &&& 0xE03FFFFF = e' &&& 0xE03FFFFF → TicksAgree (s.withEntry e) (s.withEntry e')) ∧
    (s.walkState = .level2 → e &&& 0xF80FFFFF = e' &&& 0xF80FFFFF → TicksAgree (s.withEntry e) (s.withEntry e'))

/-- R33: while idle, the value `next_addr` holds reaches nothing specified. "The only place it shows is the `mem_addr` wire
while `mem_ren = 0`": `mem_ren` is compared and 0, and `mem_addr` is then not compared. -/
def Obligations.IdleFetchAddressUnobservable : Prop :=
  ∀ (s : State) (a : Addr), s.walkState = .idle → TicksAgree s { s with nextAddr := a }

/-- R20, R151: nothing of the outputs or the port is carried from one tick to the next. -/
def Obligations.OutputsAreNotStored : Prop :=
  ∀ (s : State) (o : Outputs) (p : MemPort), TicksAgree s { s with out := o, port := p }

/-- R142: apart from the `X` values a tick is determined by the registers, the inputs and the fetched word: the Memory
elsewhere, the rest of the stimulus and the draw counter do not matter. -/
def Obligations.TickDeterminedBySignals : Prop :=
  ∀ s s' : State, s.signals = s'.signals → TicksAgree s s'

/-! ### Outputs by stage -/

/-- R131: the codes of a tick without reset, by stage. -/
def Obligations.ErrorCodesByStage : Prop :=
  ∀ s t : State, s.inputs.reset = false → step s = .next t →
    (t.out.errorCode = 0 ∨ t.out.errorCode = 1 ∨ t.out.errorCode = 2 ∨ t.out.errorCode = 4) ∧
    (t.out.errorCode = 2 ∨ t.out.errorCode = 4 → s.walkState = .level2) ∧
    (t.out.errorCode = 1 → s.walkState = .level1 ∨ s.walkState = .level2) ∧
    (s.walkState = .idle → t.out.errorCode = 0)

/-- R126, R127: the code of an idle tick, and of a `LEVEL1` tick, where no permission counts. -/
def Obligations.ErrorCodeAtIdleAndLevel1 : Prop :=
  ∀ s : State, s.inputs.reset = false →
    (s.walkState = .idle → ∃ t, step s = .next t ∧ t.out.errorCode = 0) ∧
    (s.walkState = .level1 → ∃ t, step s = .next t ∧
      t.out.errorCode = if (s.mem.read s.nextAddr).getLsbD 31 = false then 1 else 0)

/-- R132: `finished_walk` is 1 exactly in a `LEVEL2` tick without reset; of a walk's three ticks, exactly in the third when
the level-1 entry is valid, and in neither of its two ticks when it is not. -/
def Obligations.FinishedWalkExactlyAtLevel2 : Prop :=
  (∀ s t : State, s.inputs.reset = false → step s = .next t →
    (t.out.finishedWalk = true ↔ s.walkState = .level2)) ∧
  ∀ s t1 t2 t3 : State,
    s.walkState = .idle → s.inputs.reset = false → s.inputs.newRequest = true → step s = .next t1 →
    t1.inputs.reset = false → step t1 = .next t2 →
    t1.out.finishedWalk = false ∧ t2.out.finishedWalk = false ∧
      (t2.inputs.reset = false → step t2 = .next t3 →
        (t3.out.finishedWalk = true ↔ t1.rdata.getLsbD 31 = true))

/-- R111, R114: the status outputs are the bits of the entry read this tick, valid or not; while idle all are 0 and the
only thing computed is the next fetch address. -/
def Obligations.StatusOutputsReflectEntryRead : Prop :=
  ∀ s t : State, s.inputs.reset = false → step s = .next t →
    (s.walkState = .level1 ∨ s.walkState = .level2 →
      t.out.valid = (s.mem.read s.nextAddr).getLsbD 31 ∧ t.out.dirty = (s.mem.read s.nextAddr).getLsbD 30 ∧
        t.out.referenced = (s.mem.read s.nextAddr).getLsbD 29) ∧
    (s.walkState = .idle →
      t.out.valid = false ∧ t.out.dirty = false ∧ t.out.referenced = false ∧ pageFault s.walkState s.rdata = false ∧
        t.out.finishedWalk = false ∧ t.out.errorCode = 0 ∧
        t.nextAddr = (0x3FFBFF : BitVec 22) ++ s.inputs.virtualAddr.extractLsb' 22 10)

/-- R29: `mem_addr` always equals `next_addr`, and `mem_ren` is 1 exactly at `LEVEL1` or `LEVEL2`, reset or not. -/
def Obligations.MemoryPortFollowsRegisters : Prop :=
  ∀ s t : State, step s = .next t →
    t.port.memAddr = s.nextAddr ∧ (t.port.memRen = true ↔ s.walkState = .level1 ∨ s.walkState = .level2)

/-- R129: the closed form of the `LEVEL2` code, with `need` the permission the request needs. Its order is the spec's
decision D1 (log entry 10). -/
def Obligations.LeafCodeClosedForm : Prop :=
  ∀ (valid readable writable : Bool) (rt : RequestType),
    leafCode (!valid) readable writable rt =
      (let need := if rt = .read then readable else writable
       if need = false then (if rt = .read then 2 else 4) else if valid then 0 else 1)

/-- R129, decision D1 (log entry 10): the rejected order differs in the four starred rows and in no other: leaf invalid and the needed permission 0. -/
def Obligations.LeafOrdersDifferInFourRows : Prop :=
  ∀ (valid readable writable : Bool) (rt : RequestType),
    (leafCodeUnder .faultOverPerm (!valid) readable writable rt ≠ leafCode (!valid) readable writable rt ↔
      valid = false ∧ (rt = .read ∧ readable = false ∨ rt = .write ∧ writable = false)) ∧
    (leafCodeUnder .faultOverPerm (!valid) readable writable rt ≠ leafCode (!valid) readable writable rt →
      leafCodeUnder .faultOverPerm (!valid) readable writable rt = 1)

/-- R147: a permission the request needs and the leaf lacks is reported. That it is reported of an invalid leaf too rests on
the order the spec keeps by its own decision D1 (log entry 10, unsafe). -/
def Obligations.PermissionViolationsAtTheLeaf : Prop :=
  ∀ s : State, s.inputs.reset = false → s.walkState = .level2 →
    ∃ t, step s = .next t ∧
      (s.inputs.requestType = .read → (s.mem.read s.nextAddr).getLsbD 27 = false → t.out.errorCode = 2) ∧
      (s.inputs.requestType = .write → (s.mem.read s.nextAddr).getLsbD 28 = false → t.out.errorCode = 4)

/-- R146: "Under the resolver order this spec keeps", its own decision D1 (log entry 10, unsafe), an invalid leaf reports 1
exactly when it grants the permission the request needs; the walk finishes anyway. -/
def Obligations.InvalidLeafReportsPageFault : Prop :=
  ∀ s : State, s.inputs.reset = false → s.walkState = .level2 → (s.mem.read s.nextAddr).getLsbD 31 = false →
    ∃ t, step s = .next t ∧ t.out.finishedWalk = true ∧
      (t.out.errorCode = 1 ↔
        (s.inputs.requestType = .read ∧ (s.mem.read s.nextAddr).getLsbD 27 = true ∨
          s.inputs.requestType = .write ∧ (s.mem.read s.nextAddr).getLsbD 28 = true)) ∧
      (t.out.errorCode ≠ 1 → t.out.errorCode = 2 ∨ t.out.errorCode = 4)

/-! ### Whole walks -/

/-- R50: a walk over an address held stable and a Memory that does not change computes `walkTranslation`: an invalid level-1
entry ends it in its second tick, and otherwise the third tick drives the result and the PTW is idle again. -/
def Obligations.WholeWalkComputesTranslation : Prop :=
  ∀ (s : State) (va : Addr) (rt : RequestType),
    s.walkState = .idle → s.inputs.reset = false → s.inputs.newRequest = true → s.inputs.virtualAddr = va →
    ∃ t1, step s = .next t1 ∧ t1.out.errorCode = 0 ∧ t1.out.finishedWalk = false ∧
      (t1.inputs.reset = false → t1.inputs.virtualAddr = va → t1.mem = s.mem →
        ∃ t2, step t1 = .next t2 ∧ t2.out.finishedWalk = false ∧
          match walkTranslation s.mem va rt with
          | .l1Fault dirty referenced =>
            t2.walkState = .idle ∧ t2.out.errorCode = 1 ∧ t2.out.valid = false ∧ t2.out.dirty = dirty ∧
              t2.out.referenced = referenced
          | .finished pa valid dirty referenced code =>
            t2.out.errorCode = 0 ∧
              (t2.inputs.reset = false → t2.inputs.virtualAddr = va → t2.inputs.requestType = rt → t2.mem = s.mem →
                ∃ t3, step t2 = .next t3 ∧ t3.walkState = .idle ∧
                  t3.out = ⟨pa, valid, dirty, referenced, code, true⟩))

/-- R144: a walk whose entries are valid and whose leaf grants the request is clean, and finishes on the third tick only.
The two entries are what the Memory holds in their ticks (decision D10). -/
def Obligations.CleanWalk : Prop :=
  ∀ (s : State) (va : Addr) (rt : RequestType),
    s.walkState = .idle → s.inputs.reset = false → s.inputs.newRequest = true → s.inputs.virtualAddr = va →
    ∃ t1, step s = .next t1 ∧ t1.out.errorCode = 0 ∧ t1.out.finishedWalk = false ∧
      ∀ e1 : Word, e1 = t1.mem.read ((0x3FFBFF : BitVec 22) ++ va.extractLsb' 22 10) → e1.getLsbD 31 = true →
        t1.inputs.reset = false → t1.inputs.virtualAddr = va →
        ∃ t2, step t1 = .next t2 ∧ t2.out.errorCode = 0 ∧ t2.out.finishedWalk = false ∧
          ∀ e2 : Word, e2 = t2.mem.read (e1.extractLsb' 0 22 ++ va.extractLsb' 12 10) → e2.getLsbD 31 = true →
            (rt = .read → e2.getLsbD 27 = true) → (rt = .write → e2.getLsbD 28 = true) →
            t2.inputs.reset = false → t2.inputs.virtualAddr = va → t2.inputs.requestType = rt →
            ∃ t3, step t2 = .next t3 ∧ t3.out.errorCode = 0 ∧ t3.out.finishedWalk = true ∧
              t3.out.physicalAddr = e2.extractLsb' 0 20 ++ va.extractLsb' 0 12

/-- R145: an invalid level-1 entry ends the walk in its second tick, whose one read is of the level-1 entry. -/
def Obligations.Level1FaultEndsWalk : Prop :=
  ∀ (s : State) (va : Addr),
    s.walkState = .idle → s.inputs.reset = false → s.inputs.newRequest = true → s.inputs.virtualAddr = va →
    ∃ t1, step s = .next t1 ∧ t1.port.memRen = false ∧
      (t1.inputs.reset = false →
        (t1.mem.read ((0x3FFBFF : BitVec 22) ++ va.extractLsb' 22 10)).getLsbD 31 = false →
        ∃ t2, step t1 = .next t2 ∧ t2.out.errorCode = 1 ∧ t2.out.finishedWalk = false ∧ t2.walkState = .idle ∧
          t2.port = ⟨(0x3FFBFF : BitVec 22) ++ va.extractLsb' 22 10, true⟩ ∧
          ∀ t3, step t2 = .next t3 → t3.port.memRen = false)

/-- R150: the addresses of a walk's two reads, whatever the address input does between them. The second tick or the third may
itself be a reset tick: that its read is presented all the same is the spec's decision D15 (log entry 13). -/
def Obligations.ReadsOfAWalk : Prop :=
  ∀ s t1 t2 t3 : State,
    s.walkState = .idle → s.inputs.reset = false → s.inputs.newRequest = true →
    step s = .next t1 → step t1 = .next t2 → step t2 = .next t3 →
    t1.port.memRen = false ∧
    t2.port = ⟨(0x3FFBFF : BitVec 22) ++ s.inputs.virtualAddr.extractLsb' 22 10, true⟩ ∧
    (t3.port.memRen = true ↔ t1.inputs.reset = false ∧ t1.rdata.getLsbD 31 = true) ∧
    (t3.port.memRen = true →
      t3.port.memAddr = t1.rdata.extractLsb' 0 22 ++ t1.inputs.virtualAddr.extractLsb' 12 10)

/-- R102: the tick after the last tick of a walk samples `new_request` afresh and can start the next walk. -/
def Obligations.BackToBackWalks : Prop :=
  ∀ s t : State, s.inputs.reset = false → step s = .next t →
    s.walkState = .level2 ∨ (s.walkState = .level1 ∧ (s.mem.read s.nextAddr).getLsbD 31 = false) →
    t.inputs.reset = false → t.inputs.newRequest = true →
    ∃ u, step t = .next u ∧ u.walkState = .level1 ∧
      u.nextAddr = (0x3FFBFF : BitVec 22) ++ t.inputs.virtualAddr.extractLsb' 22 10

/-- R76: the pseudo-operations. `RESET` and `IDLE` are one tick each. `WALK` is three ticks from `IDLE` to `IDLE`; when the
level-1 entry is invalid its third tick is an idle tick. -/
def Obligations.PseudoOperationsExpand : Prop :=
  ∀ (s : State) (va : Addr) (rt : RequestType) (nr : Bool) (rest : List Stimulus),
    (s.stimulus = traceReset va nr rt ++ rest →
      ∃ t, step s = .next t ∧ t.walkState = .idle ∧ t.stimulus = rest ∧ t.mem = s.mem) ∧
    (s.walkState = .idle → s.stimulus = traceIdle va ++ rest →
      ∃ t, step s = .next t ∧ t.walkState = .idle ∧ t.stimulus = rest ∧ t.mem = s.mem ∧ t.out.finishedWalk = false) ∧
    (s.walkState = .idle → s.stimulus = traceWalk va rt ++ rest →
      ∃ t1 t2 t3, step s = .next t1 ∧ step t1 = .next t2 ∧ step t2 = .next t3 ∧
        t3.walkState = .idle ∧ t3.stimulus = rest ∧ t3.mem = s.mem ∧
        match walkTranslation s.mem va rt with
        | .l1Fault _ _ => t2.walkState = .idle ∧ t2.out.errorCode = 1 ∧ t3.out.errorCode = 0 ∧ t3.out.finishedWalk = false
        | .finished pa valid dirty referenced code => t3.out = ⟨pa, valid, dirty, referenced, code, true⟩)

/-! ### Addresses -/

/-- R81, R82, R83: the decoder's shift and mask formulas. -/
def Obligations.AddressDecoderFormulas : Prop :=
  ∀ va : Addr,
    (decodeAddr va).1.setWidth 32 = va >>> 22 ∧
    (decodeAddr va).2.1.setWidth 32 = (va >>> 12) &&& 0x3FF ∧
    (decodeAddr va).2.2.setWidth 32 = va &&& 0xFFF

/-- R85: the three fields partition the address, and reappear in the low bits of the three assembled addresses. -/
def Obligations.AddressFieldsPartitionAndReappear : Prop :=
  ∀ (va : Addr) (e : Word),
    (decodeAddr va).1 ++ ((decodeAddr va).2.1 ++ (decodeAddr va).2.2) = va ∧
    (rootFetchAddr (decodeAddr va).1).extractLsb' 0 10 = (decodeAddr va).1 ∧
    (leafFetchAddr e (decodeAddr va).2.1).extractLsb' 0 10 = (decodeAddr va).2.1 ∧
    (physAddr e (decodeAddr va).2.2).extractLsb' 0 12 = (decodeAddr va).2.2

/-- R47: the root table's entries. -/
def Obligations.RootTableAddresses : Prop :=
  ∀ i : BitVec 10,
    (rootFetchAddr i).toNat = 0xFFEFFC00 + i.toNat ∧
      0xFFEFFC00 ≤ (rootFetchAddr i).toNat ∧ (rootFetchAddr i).toNat ≤ 0xFFEFFFFF

/-- R48: the entries of the leaf table a level-1 entry points to: `e1[21:0] * 2^10 + j`. -/
def Obligations.LeafTableAddresses : Prop :=
  ∀ (e1 : Word) (j : BitVec 10),
    (leafFetchAddr e1 j).toNat = (e1.extractLsb' 0 22).toNat * 2 ^ 10 + j.toNat ∧
      (leafFetchAddr e1 0).toNat % 1024 = 0

/-! ### The Memory -/

/-- R46: an address nobody populated reads 0, the spec's decision D11 (log entry 3, unsafe). Read as a level-1 entry it ends the walk with code 1; read as a leaf it
finishes the walk with code 2 for a READ and 4 for a WRITE, by the order of its decision D1 (log entry 10, unsafe). -/
def Obligations.UnpopulatedAddressBehaviour : Prop :=
  ∀ s : State, (∀ c ∈ s.mem, c.1 ≠ s.nextAddr.toNat) →
    s.mem.read s.nextAddr = 0 ∧
    (s.inputs.reset = false → s.walkState = .level1 →
      ∃ t, step s = .next t ∧ t.walkState = .idle ∧ t.out.valid = false ∧ t.out.dirty = false ∧
        t.out.referenced = false ∧ t.out.errorCode = 1) ∧
    (s.inputs.reset = false → s.walkState = .level2 →
      ∃ t, step s = .next t ∧ t.out.valid = false ∧ t.out.dirty = false ∧ t.out.referenced = false ∧
        t.out.physicalAddr = (0 : BitVec 20) ++ s.inputs.virtualAddr.extractLsb' 0 12 ∧ t.out.finishedWalk = true ∧
        t.out.errorCode = (if s.inputs.requestType = .read then 2 else 4))

/-- R7, R43: through a step, the word at an address changes only if another agent put a word there. That they put words
between two ticks is the model's choice (log entry 6, DESIGN CHOICE). -/
def Obligations.MemoryChangesOnlyByOtherAgents : Prop :=
  ∀ s t : State, step s = .next t →
    ∀ a : Addr, (∀ p ∈ s.now.pokes, p.1 ≠ a) → t.mem.read a = s.mem.read a

/-- R57: a word another agent puts at an address, whatever it and others put at other addresses around it in the same tick,
is what every later read of that address sees until another word is put there, with no other action. That such changes fall
between two ticks in the order of a list, so that the last word put at an address wins, is no rule of the spec but the
model's choice (log entry 6, DESIGN CHOICE). -/
def Obligations.TableChangeSeenByNextRead : Prop :=
  ∀ (s t : State) (a : Addr) (w : Word) (ps qs : List (Addr × Word)), s.mem.wf = true →
    s.now.pokes = ps ++ (a, w) :: qs → (∀ q ∈ qs, q.1 ≠ a) → step s = .next t →
    ∀ u, ReachesUntouched a t u → u.mem.read a = w ∧ (u.nextAddr = a → u.rdata = w)

/-- The canonical form is unique: two memories in it that read alike at every address are equal. -/
def Obligations.CanonicalMemoryIsUnique : Prop :=
  ∀ m m' : Memory, m.wf = true → m'.wf = true → (∀ a : Addr, m.read a = m'.read a) → m = m'
end

