-- ==== Sys2Proof/Laws/State.lean ====
section
/-! SUPPORT. One lemma per field per update of State, true by unfolding, so that no later proof unfolds an update. -/

namespace Sys2Proof.Machine

section Commit
variable (s : State) (ws : WalkState) (na : Addr) (o : Outputs)

@[simp] theorem State.commit_walkState : (s.commit ws na o).walkState = ws := rfl
@[simp] theorem State.commit_nextAddr : (s.commit ws na o).nextAddr = na := rfl
@[simp] theorem State.commit_mem : (s.commit ws na o).mem = s.mem := rfl
@[simp] theorem State.commit_stimulus : (s.commit ws na o).stimulus = s.stimulus := rfl
@[simp] theorem State.commit_out : (s.commit ws na o).out = o := rfl
@[simp] theorem State.commit_port : (s.commit ws na o).port = s.portNow := rfl
@[simp] theorem State.commit_draw : (s.commit ws na o).draw = s.draw := rfl
@[simp] theorem State.commit_now : (s.commit ws na o).now = s.now := rfl
@[simp] theorem State.commit_inputs : (s.commit ws na o).inputs = s.inputs := rfl

end Commit

section Advance
variable (s : State)

@[simp] theorem State.advance_walkState : s.advance.walkState = s.walkState := rfl
@[simp] theorem State.advance_nextAddr : s.advance.nextAddr = s.nextAddr := rfl
@[simp] theorem State.advance_mem : s.advance.mem = s.mem.poke s.now.pokes := rfl
@[simp] theorem State.advance_stimulus : s.advance.stimulus = s.stimulus.tail := rfl
@[simp] theorem State.advance_out : s.advance.out = s.out := rfl
@[simp] theorem State.advance_port : s.advance.port = s.port := rfl
@[simp] theorem State.advance_draw : s.advance.draw = s.draw + 1 := rfl

end Advance

section WithInputs
variable (s : State) (i : Inputs)

@[simp] theorem State.withInputs_walkState : (s.withInputs i).walkState = s.walkState := rfl
@[simp] theorem State.withInputs_nextAddr : (s.withInputs i).nextAddr = s.nextAddr := rfl
@[simp] theorem State.withInputs_mem : (s.withInputs i).mem = s.mem := rfl
@[simp] theorem State.withInputs_out : (s.withInputs i).out = s.out := rfl
@[simp] theorem State.withInputs_port : (s.withInputs i).port = s.port := rfl
@[simp] theorem State.withInputs_draw : (s.withInputs i).draw = s.draw := rfl
@[simp] theorem State.withInputs_inputs : (s.withInputs i).inputs = i := rfl
@[simp] theorem State.withInputs_pokes : (s.withInputs i).now.pokes = s.now.pokes := rfl
@[simp] theorem State.withInputs_rdata : (s.withInputs i).rdata = s.rdata := rfl

end WithInputs

section WithEntry
variable (s : State) (e : Word)

@[simp] theorem State.withEntry_walkState : (s.withEntry e).walkState = s.walkState := rfl
@[simp] theorem State.withEntry_nextAddr : (s.withEntry e).nextAddr = s.nextAddr := rfl
@[simp] theorem State.withEntry_mem : (s.withEntry e).mem = s.mem.write s.nextAddr e := rfl
@[simp] theorem State.withEntry_stimulus : (s.withEntry e).stimulus = s.stimulus := rfl
@[simp] theorem State.withEntry_out : (s.withEntry e).out = s.out := rfl
@[simp] theorem State.withEntry_port : (s.withEntry e).port = s.port := rfl
@[simp] theorem State.withEntry_draw : (s.withEntry e).draw = s.draw := rfl
@[simp] theorem State.withEntry_inputs : (s.withEntry e).inputs = s.inputs := rfl

end WithEntry

section Port

theorem isBusy_iff (ws : WalkState) : isBusy ws = true ↔ ws = .level1 ∨ ws = .level2 := by
  cases ws <;> simp [isBusy]

@[simp] theorem State.portNow_memAddr (s : State) : s.portNow.memAddr = s.nextAddr := rfl
@[simp] theorem State.portNow_memRen (s : State) : s.portNow.memRen = isBusy s.walkState := rfl

end Port

section Reset

@[simp] theorem State.reset_walkState : State.reset.walkState = .idle := rfl
@[simp] theorem State.reset_mem : State.reset.mem = [] := rfl
@[simp] theorem State.reset_stimulus : State.reset.stimulus = [] := rfl

end Reset

section PlaceControlWord
variable (s : State) (cw : BitVec 5)

@[simp] theorem State.placeControlWord_walkState : (s.placeControlWord cw).walkState = cwState cw := rfl
@[simp] theorem State.placeControlWord_nextAddr : (s.placeControlWord cw).nextAddr = s.nextAddr := rfl
@[simp] theorem State.placeControlWord_mem :
    (s.placeControlWord cw).mem = s.mem.write s.nextAddr (setEntryValid s.rdata (cwEntryValid cw)) := rfl
@[simp] theorem State.placeControlWord_draw : (s.placeControlWord cw).draw = s.draw := rfl
@[simp] theorem State.placeControlWord_inputs :
    (s.placeControlWord cw).inputs = { s.inputs with reset := cwReset cw, newRequest := cwNewRequest cw } := rfl

end PlaceControlWord

end Sys2Proof.Machine
end

