-- ==== Sys2Proof/Laws/Memory.lean ====
section
/-! SUPPORT. The laws of the Memory: a write is read back, leaves every other address alone, and keeps the canonical
form. -/

namespace Sys2Proof.Machine

theorem Memory.lookup_put_same (m : Memory) (a : Nat) (w : Word) (lo : Nat) (h : m.wfFrom lo = true) :
    (m.put a w).lookup a = w := by
  induction m generalizing lo with
  | nil => simp only [Memory.put]; split <;> simp_all [Memory.lookup]
  | cons c m ih =>
    obtain ⟨k, x⟩ := c
    simp only [Memory.wfFrom, Bool.and_eq_true, decide_eq_true_eq] at h
    have below : ∀ (n : Memory) (b : Nat), n.wfFrom b = true → a < b → n.lookup a = Memory.unlisted := by
      intro n
      induction n with
      | nil => intros; rfl
      | cons d n ihn =>
        intro b hb hab
        obtain ⟨j, y⟩ := d
        simp only [Memory.wfFrom, Bool.and_eq_true, decide_eq_true_eq] at hb
        have hj : j ≠ a := by omega
        simp only [Memory.lookup, if_neg hj]
        exact ihn (j + 1) hb.2 (by omega)
    simp only [Memory.put]
    split
    · rename_i hlt
      split
      · have hk : k ≠ a := by omega
        simp only [Memory.lookup, if_neg hk]
        exact (below m (k + 1) h.2 (by omega)).trans (by simp_all)
      · simp [Memory.lookup]
    · split
      · rename_i heq
        split
        · exact (below m (k + 1) h.2 (by omega)).trans (by simp_all)
        · simp [Memory.lookup]
      · have hk : k ≠ a := by omega
        simp only [Memory.lookup, if_neg hk]
        exact ih (k + 1) h.2

theorem Memory.lookup_put_other (m : Memory) (a b : Nat) (w : Word) (hab : a ≠ b) :
    (m.put a w).lookup b = m.lookup b := by
  induction m with
  | nil => simp only [Memory.put]; split <;> simp [Memory.lookup, hab]
  | cons c m ih =>
    obtain ⟨k, x⟩ := c
    simp only [Memory.put]
    split
    · split <;> simp [Memory.lookup, hab]
    · split
      · rename_i heq
        have hk : k ≠ b := by omega
        split <;> simp [Memory.lookup, hab, hk]
      · simp only [Memory.lookup, ih]

theorem Memory.put_wfFrom (m : Memory) (a : Nat) (w : Word) (lo : Nat) (h : m.wfFrom lo = true)
    (ha : a < 2 ^ 32) (hlo : lo ≤ a) : (m.put a w).wfFrom lo = true := by
  induction m generalizing lo with
  | nil => simp only [Memory.put]; split <;> simp_all [Memory.wfFrom]
  | cons c m ih =>
    obtain ⟨k, x⟩ := c
    have h' := h
    simp only [Memory.wfFrom, Bool.and_eq_true, decide_eq_true_eq, bne_iff_ne, ne_eq] at h'
    obtain ⟨⟨⟨h1, h2⟩, h3⟩, h4⟩ := h'
    have weaken : ∀ (n : Memory) (p q : Nat), p ≤ q → n.wfFrom q = true → n.wfFrom p = true := by
      intro n p q hpq hq
      cases n with
      | nil => rfl
      | cons d n =>
        obtain ⟨j, y⟩ := d
        simp only [Memory.wfFrom, Bool.and_eq_true, decide_eq_true_eq] at hq ⊢
        exact ⟨⟨⟨by omega, hq.1.1.2⟩, hq.1.2⟩, hq.2⟩
    simp only [Memory.put]
    split
    · split
      · exact h
      · simp only [Memory.wfFrom, Bool.and_eq_true, decide_eq_true_eq, bne_iff_ne, ne_eq]
        exact ⟨⟨⟨hlo, ha⟩, by assumption⟩, ⟨⟨by omega, h2⟩, h3⟩, h4⟩
    · split
      · split
        · exact weaken m lo (k + 1) (by omega) h4
        · simp only [Memory.wfFrom, Bool.and_eq_true, decide_eq_true_eq, bne_iff_ne, ne_eq]
          exact ⟨⟨⟨hlo, ha⟩, by assumption⟩, weaken m (a + 1) (k + 1) (by omega) h4⟩
      · simp only [Memory.wfFrom, Bool.and_eq_true, decide_eq_true_eq, bne_iff_ne, ne_eq]
        exact ⟨⟨⟨h1, h2⟩, h3⟩, ih (k + 1) h4 (by omega)⟩

/-- Every operation on the Memory keeps the canonical form. -/
theorem Memory.write_wf (m : Memory) (a : Addr) (w : Word) (h : m.wf = true) : (m.write a w).wf = true :=
  Memory.put_wfFrom m a.toNat w 0 h a.isLt (Nat.zero_le _)

theorem Memory.poke_wf (m : Memory) (ps : List (Addr × Word)) (h : m.wf = true) : (m.poke ps).wf = true := by
  induction ps generalizing m with
  | nil => exact h
  | cons p ps ih => exact ih _ (Memory.write_wf m p.1 p.2 h)

theorem Memory.read_write_same (m : Memory) (a : Addr) (w : Word) (h : m.wf = true) : (m.write a w).read a = w :=
  Memory.lookup_put_same m a.toNat w 0 h

theorem Memory.read_write_other (m : Memory) (a b : Addr) (w : Word) (hab : a ≠ b) :
    (m.write a w).read b = m.read b :=
  Memory.lookup_put_other m a.toNat b.toNat w (fun h => hab (BitVec.eq_of_toNat_eq h))

@[simp] theorem Memory.poke_nil (m : Memory) : m.poke [] = m := rfl

theorem Memory.read_poke_other (m : Memory) (ps : List (Addr × Word)) (b : Addr) (h : ∀ p ∈ ps, p.1 ≠ b) :
    (m.poke ps).read b = m.read b := by
  induction ps generalizing m with
  | nil => rfl
  | cons p ps ih =>
    exact (ih _ fun q hq => h q (List.mem_cons_of_mem _ hq)).trans
      (Memory.read_write_other m p.1 b p.2 (h p List.mem_cons_self))

theorem Memory.poke_append (m : Memory) (ps qs : List (Addr × Word)) : m.poke (ps ++ qs) = (m.poke ps).poke qs := by
  induction ps generalizing m with
  | nil => rfl
  | cons p ps ih => exact ih _

/-- An address that is not listed reads as `unlisted` (R46). -/
theorem Memory.lookup_not_listed (m : Memory) (a : Nat) (h : ∀ c ∈ m, c.1 ≠ a) : m.lookup a = Memory.unlisted := by
  induction m with
  | nil => rfl
  | cons c m ih =>
    simp only [Memory.lookup, if_neg (h c List.mem_cons_self)]
    exact ih fun d hd => h d (List.mem_cons_of_mem _ hd)

/-- Placing a control word keeps the canonical form of the Memory. -/
theorem State.placeControlWord_wf (s : State) (cw : BitVec 5) (h : s.mem.wf = true) :
    (s.placeControlWord cw).mem.wf = true :=
  Memory.write_wf s.mem s.nextAddr _ h

end Sys2Proof.Machine
end

