-- ==== Sys2Proof/Laws/Step.lean ====
section
/-! SUPPORT. What an operation and a step can do, said once: which operation a tick selects, and the one form of every
next state. Later proofs cite these instead of unfolding `exec` and `step`. -/

namespace Sys2Proof

@[simp] theorem WalkState.ofCode_code (ws : WalkState) : WalkState.ofCode ws.code = ws := by
  cases ws <;> rfl

@[simp] theorem cwReset_pack (r : Bool) (ss : WalkState) (n v : Bool) : cwReset (packControlWord r ss n v) = r := by
  cases r <;> cases ss <;> cases n <;> cases v <;> rfl

@[simp] theorem cwState_pack (r : Bool) (ss : WalkState) (n v : Bool) : cwState (packControlWord r ss n v) = ss := by
  cases r <;> cases ss <;> cases n <;> cases v <;> rfl

@[simp] theorem cwNewRequest_pack (r : Bool) (ss : WalkState) (n v : Bool) :
    cwNewRequest (packControlWord r ss n v) = n := by
  cases r <;> cases ss <;> cases n <;> cases v <;> rfl

@[simp] theorem cwEntryValid_pack (r : Bool) (ss : WalkState) (n v : Bool) :
    cwEntryValid (packControlWord r ss n v) = v := by
  cases r <;> cases ss <;> cases n <;> cases v <;> rfl

namespace Machine

/-- The operation a tick selects, read off the four things its control word packs. -/
theorem State.selected_eq (s : State) :
    s.selected =
      if s.inputs.reset then .opReset s.walkState s.inputs.newRequest (entryValid s.rdata)
      else
        match s.walkState with
        | .idle =>
          if s.inputs.newRequest then .opIdleStart (entryValid s.rdata) else .opIdleWait (entryValid s.rdata)
        | .level1 =>
          if entryValid s.rdata then .opL1Descend s.inputs.newRequest else .opL1Fault s.inputs.newRequest
        | .level2 => .opL2Finish s.inputs.newRequest (entryValid s.rdata)
        | .unused3 => .reservedState3 s.inputs.newRequest (entryValid s.rdata) := by
  unfold State.selected State.controlWord
  generalize s.inputs.reset = r, s.walkState = ss, s.inputs.newRequest = n, entryValid s.rdata = v
  cases r <;> cases ss <;> cases n <;> cases v <;> rfl

/-- Every operation that answers a next state commits one clock edge and does nothing else. -/
theorem exec_next_is_commit {i : Instr} {s t : State} (h : exec i s = .next t) :
    ∃ ws na o, t = s.commit ws na o := by
  cases i <;>
    simp only [exec, execOpReset, execOpIdleWait, execOpIdleStart, execOpL1Fault, execOpL1Descend, execOpL2Finish,
      execReservedState3, Host.Outcome.next.injEq, reduceCtorEq] at h <;>
    exact ⟨_, _, _, h.symm⟩

/-- A step that answers a next state ran the selected operation and passed to the next tick. -/
theorem step_next {s t : State} (h : step s = .next t) : ∃ u, exec s.selected s = .next u ∧ t = u.advance := by
  unfold step at h
  split at h
  · rename_i u hu
    exact ⟨u, hu, (Host.Outcome.next.inj h).symm⟩
  · cases h
  · cases h

theorem step_of_exec_next {s u : State} (h : exec s.selected s = .next u) : step s = .next u.advance := by
  unfold step; rw [h]

/-- The seven rows of the transition table: in every tick exactly one of these conditions holds. -/
theorem State.tick_cases (s : State) :
    (s.inputs.reset = true) ∨
    (s.inputs.reset = false ∧ s.walkState = .idle ∧ s.inputs.newRequest = false) ∨
    (s.inputs.reset = false ∧ s.walkState = .idle ∧ s.inputs.newRequest = true) ∨
    (s.inputs.reset = false ∧ s.walkState = .level1 ∧ entryValid s.rdata = false) ∨
    (s.inputs.reset = false ∧ s.walkState = .level1 ∧ entryValid s.rdata = true) ∨
    (s.inputs.reset = false ∧ s.walkState = .level2) ∨
    (s.inputs.reset = false ∧ s.walkState = .unused3) := by
  cases s.inputs.reset <;> cases s.walkState <;> cases s.inputs.newRequest <;> cases entryValid s.rdata <;> simp

/-! One equation per row of the transition table (R90): the whole next state of a tick. -/

theorem step_reset {s : State} (hr : s.inputs.reset = true) :
    step s = .next (s.commit .idle s.freeNextAddr s.freeOutputs).advance :=
  step_of_exec_next (by rw [State.selected_eq, if_pos hr]; rfl)

theorem step_idle_wait {s : State} (hr : s.inputs.reset = false) (hs : s.walkState = .idle)
    (hn : s.inputs.newRequest = false) :
    step s = .next (s.commit .idle (rootFetchAddr (l1Index s.inputs.virtualAddr)) s.idleOutputs).advance :=
  step_of_exec_next (by rw [State.selected_eq]; simp [hr, hs, hn]; rfl)

theorem step_idle_start {s : State} (hr : s.inputs.reset = false) (hs : s.walkState = .idle)
    (hn : s.inputs.newRequest = true) :
    step s = .next (s.commit .level1 (rootFetchAddr (l1Index s.inputs.virtualAddr)) s.idleOutputs).advance :=
  step_of_exec_next (by rw [State.selected_eq]; simp [hr, hs, hn]; rfl)

theorem step_l1_fault {s : State} (hr : s.inputs.reset = false) (hs : s.walkState = .level1)
    (hv : entryValid s.rdata = false) :
    step s = .next (s.commit .idle s.nextAddr
      ⟨s.freePhysicalAddr, false, entryDirty s.rdata, entryReferenced s.rdata, codePageFault, false⟩).advance :=
  step_of_exec_next (by rw [State.selected_eq]; simp [hr, hs, hv]; rfl)

theorem step_l1_descend {s : State} (hr : s.inputs.reset = false) (hs : s.walkState = .level1)
    (hv : entryValid s.rdata = true) :
    step s = .next (s.commit .level2 (leafFetchAddr s.rdata (l2Index s.inputs.virtualAddr))
      ⟨s.freePhysicalAddr, true, entryDirty s.rdata, entryReferenced s.rdata, codeNone, false⟩).advance :=
  step_of_exec_next (by rw [State.selected_eq]; simp [hr, hs, hv]; rfl)

theorem step_l2_finish {s : State} (hr : s.inputs.reset = false) (hs : s.walkState = .level2) :
    step s = .next (s.commit .idle s.nextAddr
      ⟨physAddr s.rdata (pageOffset s.inputs.virtualAddr), entryValid s.rdata, entryDirty s.rdata,
        entryReferenced s.rdata,
        leafCode (!entryValid s.rdata) (entryReadable s.rdata) (entryWritable s.rdata) s.inputs.requestType,
        true⟩).advance :=
  step_of_exec_next (by rw [State.selected_eq]; simp [hr, hs]; rfl)

theorem step_unused3 {s : State} (hr : s.inputs.reset = false) (hs : s.walkState = .unused3) :
    step s = .fault .unusedState3 := by
  have h : s.selected = .reservedState3 s.inputs.newRequest (entryValid s.rdata) := by
    rw [State.selected_eq]; simp [hr, hs]
  unfold step; rw [h]; rfl

/-- Reading past a placed control word: the very next tick has exactly that control word. -/
theorem State.placeControlWord_entryValid (s : State) (cw : BitVec 5) (h : s.mem.wf = true) :
    entryValid (s.placeControlWord cw).rdata = cwEntryValid cw := by
  have hr : (s.placeControlWord cw).rdata = setEntryValid s.rdata (cwEntryValid cw) :=
    Memory.read_write_same s.mem s.nextAddr _ h
  rw [hr]
  unfold entryValid setEntryValid
  rw [BitVec.getLsbD_append]
  cases cwEntryValid cw <;> rfl

end Machine

end Sys2Proof
end

