-- ==== Sys2Proof/Laws/Agree.lean ====
section
/-! SUPPORT. The one lemma behind every statement that something does not matter to a tick: two ticks agree on all that is
specified when they agree, stage by stage, on what that stage reads. -/

namespace Sys2Proof.Machine

theorem ticksAgree_of {s s' : State} (hw : s.walkState = s'.walkState) (hr : s.inputs.reset = s'.inputs.reset)
    (hi : s.walkState = .idle →
      s.inputs.newRequest = s'.inputs.newRequest ∧ l1Index s.inputs.virtualAddr = l1Index s'.inputs.virtualAddr)
    (h1 : s.walkState = .level1 →
      s.nextAddr = s'.nextAddr ∧ entryValid s.rdata = entryValid s'.rdata ∧
        entryDirty s.rdata = entryDirty s'.rdata ∧ entryReferenced s.rdata = entryReferenced s'.rdata ∧
        leafFetchAddr s.rdata (l2Index s.inputs.virtualAddr) = leafFetchAddr s'.rdata (l2Index s'.inputs.virtualAddr))
    (h2 : s.walkState = .level2 →
      s.nextAddr = s'.nextAddr ∧ entryValid s.rdata = entryValid s'.rdata ∧
        entryDirty s.rdata = entryDirty s'.rdata ∧ entryReferenced s.rdata = entryReferenced s'.rdata ∧
        entryReadable s.rdata = entryReadable s'.rdata ∧ entryWritable s.rdata = entryWritable s'.rdata ∧
        s.inputs.requestType = s'.inputs.requestType ∧
        physAddr s.rdata (pageOffset s.inputs.virtualAddr) = physAddr s'.rdata (pageOffset s'.inputs.virtualAddr)) :
    TicksAgree s s' := by
  have hp : s.portNow.memRen = s'.portNow.memRen ∧
      (s.portNow.memRen = true → s.portNow.memAddr = s'.portNow.memAddr) := by
    simp only [State.portNow_memRen, State.portNow_memAddr, ← hw, isBusy_iff, true_and]
    rintro (h | h)
    exacts [(h1 h).1, (h2 h).1]
  unfold TicksAgree
  obtain h | ⟨h, hs, hn⟩ | ⟨h, hs, hn⟩ | ⟨h, hs, hv⟩ | ⟨h, hs, hv⟩ | ⟨h, hs⟩ | ⟨h, hs⟩ := s.tick_cases
  · rw [step_reset h, step_reset (hr ▸ h)]
    exact ⟨rfl, hp.1, hp.2, fun hf => by rw [h] at hf; cases hf⟩
  · obtain ⟨a, b⟩ := hi hs
    rw [step_idle_wait h hs hn, step_idle_wait (hr ▸ h) (hw ▸ hs) (a ▸ hn)]
    refine ⟨rfl, hp.1, hp.2, fun _ => ?_⟩
    simp [State.idleOutputs, b]
  · obtain ⟨a, b⟩ := hi hs
    rw [step_idle_start h hs hn, step_idle_start (hr ▸ h) (hw ▸ hs) (a ▸ hn)]
    refine ⟨rfl, hp.1, hp.2, fun _ => ?_⟩
    simp [State.idleOutputs, b]
  · obtain ⟨a, b, c, d, -⟩ := h1 hs
    rw [step_l1_fault h hs hv, step_l1_fault (hr ▸ h) (hw ▸ hs) (b ▸ hv)]
    refine ⟨rfl, hp.1, hp.2, fun _ => ?_⟩
    simp [a, c, d]
  · obtain ⟨-, b, c, d, e⟩ := h1 hs
    rw [step_l1_descend h hs hv, step_l1_descend (hr ▸ h) (hw ▸ hs) (b ▸ hv)]
    refine ⟨rfl, hp.1, hp.2, fun _ => ?_⟩
    simp [c, d, e]
  · obtain ⟨a, b, c, d, e, f, g, i⟩ := h2 hs
    rw [step_l2_finish h hs, step_l2_finish (hr ▸ h) (hw ▸ hs)]
    refine ⟨rfl, hp.1, hp.2, fun _ => ?_⟩
    simp [a, b, c, d, e, f, g, i]
  · rw [step_unused3 h hs, step_unused3 (hr ▸ h) (hw ▸ hs)]

end Sys2Proof.Machine
end

