-- ==== Sys2Proof/Laws/Fields.lean ====
section
/-! SUPPORT. Concatenation as a number, the three assembled addresses as numbers, and the fields they are read back by. -/

namespace Sys2Proof.Machine

/-- `concat(a, b)` is numerically `a * 2^n + b` (R13). -/
theorem concat_toNat {n m : Nat} (a : BitVec n) (b : BitVec m) : (a ++ b).toNat = a.toNat * 2 ^ m + b.toNat := by
  rw [BitVec.toNat_append, Nat.shiftLeft_eq, Nat.mul_comm, ← Nat.two_pow_add_eq_or_of_lt b.isLt]

theorem rootFetchAddr_toNat (l1 : BitVec 10) :
    (rootFetchAddr l1).toNat = Config.base.toNat * 1024 + l1.toNat := concat_toNat _ _

theorem leafFetchAddr_toNat (e : Word) (l2 : BitVec 10) :
    (leafFetchAddr e l2).toNat = (entryNextBase e).toNat * 1024 + l2.toNat := concat_toNat _ _

theorem physAddr_toNat (e : Word) (off : BitVec 12) :
    (physAddr e off).toNat = (entryFrame e).toNat * 4096 + off.toNat := concat_toNat _ _

/-- The upper 22 bits of a root-table fetch address are the base (R66). -/
theorem rootFetchAddr_upper (l1 : BitVec 10) : (rootFetchAddr l1).extractLsb' 10 22 = Config.base := by
  apply BitVec.eq_of_toNat_eq
  rw [BitVec.extractLsb'_toNat, Nat.shiftRight_eq_div_pow, rootFetchAddr_toNat]
  have h := l1.isLt
  have hb := Config.base.isLt
  omega

end Sys2Proof.Machine
end

