-- ==== Sys2Proof/Laws/PerInstr.lean ====
section
/-! SUPPORT. Per-operation families: `TableRow`, that the operation map's row of the operation's own name selects its
encoding, whatever the free letters (R70). -/

namespace Sys2Proof.Laws

/-- The row with the operation's mnemonic selects the operation's control word. -/
def TableRow.Statement (i : Instr) : Prop :=
  ((opTable.filter fun r => r.mnemonic == i.mnemonic).map fun r => r.selects (encode i)) = [true]

theorem TableRow.opReset (ss : WalkState) (n v : Bool) : TableRow.Statement (.opReset ss n v) := by
  cases ss <;> cases n <;> cases v <;> rfl

theorem TableRow.opIdleWait (v : Bool) : TableRow.Statement (.opIdleWait v) := by
  cases v <;> rfl

theorem TableRow.opIdleStart (v : Bool) : TableRow.Statement (.opIdleStart v) := by
  cases v <;> rfl

theorem TableRow.opL1Fault (n : Bool) : TableRow.Statement (.opL1Fault n) := by
  cases n <;> rfl

theorem TableRow.opL1Descend (n : Bool) : TableRow.Statement (.opL1Descend n) := by
  cases n <;> rfl

theorem TableRow.opL2Finish (n v : Bool) : TableRow.Statement (.opL2Finish n v) := by
  cases n <;> cases v <;> rfl

theorem TableRow.reservedState3 (n v : Bool) : TableRow.Statement (.reservedState3 n v) := by
  cases n <;> cases v <;> rfl

end Sys2Proof.Laws
end

