-- ==== Sys2Proof/Tests/Slice0.lean ====
section
/-! SUPPORT. Tests. Expected results come from the spec's own tables (R88, R117, R129) and vectors (95_test_vectors.md,
section 2.4), and the witnesses show, for every statement with hypotheses, a state and operands that meet them. -/

namespace Sys2Proof.Tests

open Sys2Proof Sys2Proof.Machine

/-! ### Well-formedness -/

theorem test_reserved_is_ill_formed : (Instr.reservedState3 false true).wellFormed = false := by decide

theorem test_reset_from_unused_is_well_formed : (Instr.opReset .unused3 true true).wellFormed = true := by decide

/-! ### Decoding: words written out from R69 and R70, one at least for every row -/

theorem test_decode_reset : decode 0b11011 = .opReset .level2 true true ∧ decode 0b11100 = .opReset .unused3 false false := by
  decide

theorem test_decode_idle_wait : decode 0b00000 = .opIdleWait false ∧ decode 0b00001 = .opIdleWait true := by decide

theorem test_decode_idle_start : decode 0b00010 = .opIdleStart false ∧ decode 0b00011 = .opIdleStart true := by decide

theorem test_decode_l1_fault : decode 0b00100 = .opL1Fault false ∧ decode 0b00110 = .opL1Fault true := by decide

theorem test_decode_l1_descend : decode 0b00101 = .opL1Descend false ∧ decode 0b00111 = .opL1Descend true := by decide

theorem test_decode_l2_finish : decode 0b01001 = .opL2Finish false true ∧ decode 0b01010 = .opL2Finish true false := by
  decide

theorem test_decode_reserved : decode 0b01100 = .reservedState3 false false ∧ decode 0b01111 = .reservedState3 true true := by
  decide

theorem test_table_word_too_long : decodeTableWord 8 0x25 = none ∧ decodeTableWord 16 0x105 = none := by decide

/-- R70: "The rows are disjoint and cover all 32 values". -/
theorem test_one_row_per_control_word : ∀ cw : BitVec 5, (opTable.filter fun r => r.selects cw).length = 1 := by decide

/-! ### The pieces -/

/-- Rows of R88. -/
theorem test_decoder_points :
    decodeAddr 0xFFFFFFFF = (0x3FF, 0x3FF, 0xFFF) ∧ decodeAddr 0x80000000 = (0x200, 0x000, 0x000) ∧
      decodeAddr 0x003FF000 = (0x000, 0x3FF, 0x000) ∧ decodeAddr 0x12345678 = (0x048, 0x345, 0x678) ∧
      decodeAddr 0xD0388DB3 = (0x340, 0x388, 0xDB3) := by decide

/-- Rows of R117 read as level-1 entries. -/
theorem test_interpreter_level1 :
    interpret .level1 0xC43FFC6B 0x388 0xDB3 = some ⟨true, true, false, false, none, some 0xFFF1AF88, none⟩ ∧
      interpret .level1 0x87C00000 0x388 0xDB3 = some ⟨true, false, false, false, none, some 0x00000388, none⟩ := by decide

/-- Rows of R117 read as leaf entries. -/
theorem test_interpreter_level2 :
    interpret .level2 0xAC061D26 0x388 0xDB3 =
        some ⟨true, false, true, false, some (false, true), none, some 0x61D26DB3⟩ ∧
      interpret .level2 0x7FFFFFFF 0x388 0xDB3 =
        some ⟨false, true, true, true, some (true, true), none, some 0xFFFFFDB3⟩ := by decide

/-- A leaf word of R129 and the codes its READ and its WRITE report. -/
def leafRow (e : Word) (r w : BitVec 3) : Bool :=
  leafCode (!entryValid e) (entryReadable e) (entryWritable e) .read == r &&
    leafCode (!entryValid e) (entryReadable e) (entryWritable e) .write == w

/-- The sixteen rows of R129. -/
theorem test_leaf_table :
    leafRow 0x00000000 2 4 = true ∧ leafRow 0x10000000 2 1 = true ∧ leafRow 0x08000000 1 4 = true ∧
      leafRow 0x18000000 1 1 = true ∧ leafRow 0x80000000 2 4 = true ∧ leafRow 0x90000000 2 0 = true ∧
      leafRow 0x88000000 0 4 = true ∧ leafRow 0x98000000 0 0 = true := by decide

/-! ### One tick at a time: the vectors of 95_test_vectors.md 2.4 -/

/-- The registers, the one populated word and the inputs of one vector; the next tick's stimulus is one idle tick. -/
def at_ (ws : WalkState) (na : Addr) (e : Word) (va : Addr) (nr rst : Bool) (rt : RequestType) : State :=
  traceState [(na, e)] ws na [Stimulus.tick va nr rst rt, Stimulus.tick va false false rt]

/-- The step answers a next state that passes the check. -/
def nextPasses (s : State) (p : State → Bool) : Bool :=
  match step s with
  | .next t => p t
  | .fault _ => false
  | .refused _ => false

/-- The status outputs, the code and `finished_walk` of the tick just ended. -/
def status (t : State) : Bool × Bool × Bool × BitVec 3 × Bool :=
  (t.out.valid, t.out.dirty, t.out.referenced, t.out.errorCode, t.out.finishedWalk)

/-- V2. -/
theorem test_V2_idle_wait :
    nextPasses (at_ .idle 0x12345678 0 0xFFFFFFFF false false .write) (fun t =>
      t.walkState == .idle && t.nextAddr == 0xFFEFFFFF && status t == (false, false, false, 0, false) &&
        t.port == ⟨0x12345678, false⟩) = true := by decide

/-- V3, with a valid word at the old `next_addr`, which an idle tick does not look at. -/
theorem test_V3_idle_start :
    nextPasses (at_ .idle 0x00000007 0xE0000000 0xD0388DB3 true false .read) (fun t =>
      t.walkState == .level1 && t.nextAddr == 0xFFEFFF40 && status t == (false, false, false, 0, false)) = true := by
  decide

/-- V5 and the corner of R91: reset beats `new_request`, and gives IDLE from the unused state value too. -/
theorem test_V5_reset :
    nextPasses (at_ .idle 0 0 0xD0388DB3 true true .read) (fun t => t.walkState == .idle) = true ∧
      nextPasses (at_ .unused3 0 0 0xD0388DB3 false true .read) (fun t => t.walkState == .idle) = true := by decide

/-- V23: reset at LEVEL2; the read is still on the port (D15). -/
theorem test_V23_reset_at_level2 :
    nextPasses (at_ .level2 0xFFF1AF88 0xAC061D26 0xD0388DB3 false true .read) (fun t =>
      t.walkState == .idle && t.port == ⟨0xFFF1AF88, true⟩) = true := by decide

/-- V12. -/
theorem test_V12_l1_fault_unpopulated :
    nextPasses (at_ .level1 0xFFEFFC48 0 0x12345678 false false .read) (fun t =>
      t.walkState == .idle && t.nextAddr == 0xFFEFFC48 && status t == (false, false, false, 1, false)) = true := by decide

/-- V13. -/
theorem test_V13_l1_fault_shows_bits :
    nextPasses (at_ .level1 0xFFEFFC48 0x7FFFFFFF 0x12345678 true false .read) (fun t =>
      t.walkState == .idle && t.nextAddr == 0xFFEFFC48 && status t == (false, true, true, 1, false)) = true := by decide

/-- V7. -/
theorem test_V7_l1_descend :
    nextPasses (at_ .level1 0xFFEFFF40 0xC43FFC6B 0xD0388DB3 true false .write) (fun t =>
      t.walkState == .level2 && t.nextAddr == 0xFFF1AF88 && status t == (true, true, false, 0, false) &&
        t.port == ⟨0xFFEFFF40, true⟩) = true := by decide

/-- V11. -/
theorem test_V11_l1_descend_ignored_bits :
    nextPasses (at_ .level1 0xFFEFFC48 0x87C00001 0x12345678 false false .read) (fun t =>
      t.walkState == .level2 && t.nextAddr == 0x00000745 && status t == (true, false, false, 0, false)) = true := by decide

/-- V16. -/
theorem test_V16_l2_finish_write_violation :
    nextPasses (at_ .level2 0xFFF1AF88 0xAC061D26 0xD0388DB3 false false .write) (fun t =>
      t.walkState == .idle && t.nextAddr == 0xFFF1AF88 && status t == (true, false, true, 4, true) &&
        t.out.physicalAddr == 0x61D26DB3) = true := by decide

/-- V19. -/
theorem test_V19_l2_finish_page_fault :
    nextPasses (at_ .level2 0xFFF1AF88 0x18061D26 0xD0388DB3 false false .read) (fun t =>
      t.walkState == .idle && status t == (false, false, false, 1, true) && t.out.physicalAddr == 0x61D26DB3) = true := by
  decide

/-- R101. -/
theorem test_reserved_state3_stops : step (at_ .unused3 0 0 0 true false .read) = .fault .unusedState3 := by rfl

/-- A word of each row, placed with `withFetchWord` right after reset, is what the next step performs. -/
theorem test_withFetchWord_selects :
    (List.range 32).all (fun w => (State.reset.withFetchWord 8 w).selected == decode (BitVec.ofNat 5 w)) = true := by
  decide

/-! ### The Memory -/

theorem test_memory_canonical :
    Memory.write (Memory.write (Memory.write [] 5 7) 3 9) 5 0 = [(3, 9)] ∧
      (Memory.write (Memory.write [] 0xFFFFFFFF 1) 0 2).wf = true ∧ Memory.wf [(3, 0)] = false := by decide

/-! ### Witnesses: every statement with hypotheses has a state that meets them together -/

/-- ControlWordBits and the seven clauses of SelectionFollowsTransitionTable, each clause by its own state. -/
theorem witness_selection :
    (at_ .level1 1 0 0 true true .read).inputs.reset = true ∧
    ((at_ .idle 1 0 0 true false .read).inputs.reset = false ∧ (at_ .idle 1 0 0 true false .read).walkState = .idle ∧
      (at_ .idle 1 0 0 true false .read).inputs.newRequest = true) ∧
    ((at_ .idle 1 0 0 false false .read).inputs.reset = false ∧
      (at_ .idle 1 0 0 false false .read).inputs.newRequest = false) ∧
    ((at_ .level1 1 0x7FFFFFFF 0 false false .read).inputs.reset = false ∧
      ((at_ .level1 1 0x7FFFFFFF 0 false false .read).mem.read 1).getLsbD 31 = false) ∧
    ((at_ .level1 1 0x80000000 0 false false .read).inputs.reset = false ∧
      ((at_ .level1 1 0x80000000 0 false false .read).mem.read 1).getLsbD 31 = true) ∧
    ((at_ .level2 1 0 0 false false .read).inputs.reset = false ∧ (at_ .level2 1 0 0 false false .read).walkState = .level2) ∧
    ((at_ .unused3 1 0 0 false false .read).inputs.reset = false ∧
      (at_ .unused3 1 0 0 false false .read).walkState = .unused3) := by decide

/-- StepRunsTheSelectedOperation, OperationsStoreNothing: the operation answers a next state, and one faults. -/
theorem witness_step_runs :
    (∃ t, decode (at_ .level2 1 0 0 false false .read).controlWord = .opL2Finish false false ∧
      exec (.opL2Finish false false) (at_ .level2 1 0 0 false false .read) = .next t) ∧
    ∃ f, decode (at_ .unused3 1 0 0 false false .read).controlWord = .reservedState3 false false ∧
      exec (.reservedState3 false false) (at_ .unused3 1 0 0 false false .read) = .fault f :=
  ⟨⟨_, by decide, rfl⟩, ⟨_, by decide, rfl⟩⟩

/-- StepRefinesComposedTick, both clauses; StopsExactlyAtUnusedState. -/
theorem witness_next_and_fault :
    (∃ t, step (at_ .level1 1 0x80000000 0 false false .read) = .next t) ∧
      ∃ f, step (at_ .unused3 1 0 0 false false .read) = .fault f :=
  ⟨⟨_, rfl⟩, ⟨_, rfl⟩⟩

/-- StepKeepsLegalState, with the root-table clause of the invariant in force at both ends of the table. -/
theorem witness_invariant :
    (∃ t, (at_ .level1 0xFFEFFC00 0x80000000 0 false false .read).Inv ∧
      step (at_ .level1 0xFFEFFC00 0x80000000 0 false false .read) = .next t) ∧
    (at_ .level1 0xFFEFFFFF 0x80000000 0 false false .read).Inv :=
  ⟨⟨_, by decide, rfl⟩, by decide⟩

/-- The six operation results' clause on the port, AlwaysStepsAndReturnsToIdle, SuccessorRelationExact,
BusyIgnoresNewRequest, RequestTypeSampledAtLevel2Only: a state value that meets the hypothesis. -/
theorem witness_state_values :
    (at_ .level1 1 0 0 false false .read).walkState = .level1 ∧ State.reset.walkState = .idle ∧
      (at_ .level2 1 0 0 false false .read).walkState = .level2 ∧
      (at_ .level1 1 0 0 false false .read).walkState ≠ .unused3 ∧ (at_ .level2 1 0 0 false false .read).walkState ≠ .idle ∧
      (at_ .idle 1 0 0 false false .read).walkState ≠ .level2 := by decide

/-- ResetForcesIdle, OneResetTickIsEnough: a reset tick, from the unused state value too. -/
theorem witness_reset_tick :
    (at_ .unused3 1 3 0 true true .read).inputs.reset = true ∧ (at_ .unused3 1 3 0 true true .read).mem.wf = true := by
  decide

/-- BusyTickHistory: a step into LEVEL1 and a step into LEVEL2. -/
theorem witness_busy_history :
    (∃ t, step (at_ .idle 1 0 0xFFC00000 true false .read) = .next t ∧ t.walkState = .level1) ∧
      ∃ t, step (at_ .level1 1 0xFFFFFFFF 0 true false .read) = .next t ∧ t.walkState = .level2 :=
  ⟨⟨_, rfl, rfl⟩, ⟨_, rfl, rfl⟩⟩

/-- FirstTickAfterReset: a reset tick whose next tick is without reset. -/
theorem witness_first_tick_after_reset :
    ∃ t, (at_ .level1 1 0 0 true true .read).inputs.reset = true ∧
      step (at_ .level1 1 0 0 true true .read) = .next t ∧ t.inputs.reset = false :=
  ⟨_, rfl, rfl, rfl⟩

/-- EachStageUsesOneAddressField: two different addresses with the same field, for each stage. -/
theorem witness_address_fields :
    ((0xFFC00000 : Addr) ≠ 0xFFFFFFFF ∧ (0xFFC00000 : Addr).extractLsb' 22 10 = (0xFFFFFFFF : Addr).extractLsb' 22 10) ∧
    ((0x003FF000 : Addr) ≠ 0xFFFFFFFF ∧ (0x003FF000 : Addr).extractLsb' 12 10 = (0xFFFFFFFF : Addr).extractLsb' 12 10) ∧
    ((0x00000FFF : Addr) ≠ 0xFFFFFFFF ∧ (0x00000FFF : Addr).extractLsb' 0 12 = (0xFFFFFFFF : Addr).extractLsb' 0 12) := by
  decide

/-- IgnoredEntryBitsHaveNoEffect: different words equal outside the ignored bits, over a Memory in canonical form. -/
theorem witness_ignored_bits :
    (at_ .level1 1 0 0 false false .read).mem.wf = true ∧
    ((0xE03FFFFF : Word) ≠ 0xFFFFFFFF ∧ (0xE03FFFFF : Word) &&& 0xE03FFFFF = 0xFFFFFFFF &&& 0xE03FFFFF) ∧
    ((0xF80FFFFF : Word) ≠ 0xFFFFFFFF ∧ (0xF80FFFFF : Word) &&& 0xF80FFFFF = 0xFFFFFFFF &&& 0xF80FFFFF) := by decide

/-- IdleFetchAddressUnobservable. -/
theorem witness_idle : State.reset.walkState = .idle := by decide

/-- TickDeterminedBySignals: two different states with the same signals, their Memories and counters different. -/
theorem witness_same_signals :
    at_ .level1 1 5 0 false false .read ≠
        { at_ .level1 1 5 0 false false .read with mem := [(1, 5), (2, 6)], draw := 9 } ∧
      (at_ .level1 1 5 0 false false .read).signals =
        { at_ .level1 1 5 0 false false .read with mem := [(1, 5), (2, 6)], draw := 9 }.signals := by decide

/-- ErrorCodesByStage, FinishedWalkExactlyAtLevel2, StatusOutputsReflectEntryRead, ErrorCodeAtIdleAndLevel1,
MemoryPortFollowsRegisters: a step without reset in each stage; a LEVEL2 step that reports 4, one that reports 2, and a
LEVEL1 step that reports 1. -/
theorem witness_outputs_by_stage :
    (∃ t, step (at_ .idle 1 0 0 false false .read) = .next t) ∧
    (∃ t, step (at_ .level1 1 0 0 false false .read) = .next t ∧ t.out.errorCode = 1) ∧
    (∃ t, step (at_ .level2 1 0 0 false false .read) = .next t ∧ t.out.errorCode = 2) ∧
    (∃ t, step (at_ .level2 1 0 0 false false .write) = .next t ∧ t.out.errorCode = 4) :=
  ⟨⟨_, rfl⟩, ⟨_, rfl, rfl⟩, ⟨_, rfl, rfl⟩, ⟨_, rfl, rfl⟩⟩

/-- PermissionViolationsAtTheLeaf and InvalidLeafReportsPageFault: each clause by its own leaf. -/
theorem witness_leaf_clauses :
    ((at_ .level2 1 0x90000000 0 false false .read).inputs.requestType = .read ∧
      ((at_ .level2 1 0x90000000 0 false false .read).mem.read 1).getLsbD 27 = false) ∧
    ((at_ .level2 1 0x88000000 0 false false .write).inputs.requestType = .write ∧
      ((at_ .level2 1 0x88000000 0 false false .write).mem.read 1).getLsbD 28 = false) ∧
    ((at_ .level2 1 0x08000000 0 false false .read).mem.read 1).getLsbD 31 = false ∧
    ∃ t, step (at_ .level2 1 0x10000000 0 false false .read) = .next t ∧ t.out.errorCode ≠ 1 :=
  ⟨by decide, by decide, by decide, _, rfl, by decide⟩

/-- The Memory of the source's scenario, at the corrected addresses (90_conflicts.md C1), and three ticks of stimulus. -/
def scenario (va : Addr) : State :=
  { State.reset with
    mem := [(0x61D26DB3, 0xDEADBEEF), (0xFFEFFF40, 0xC43FFC6B), (0xFFF1AF88, 0xAC061D26)]
    stimulus := List.replicate 4 ⟨⟨va, true, false, .read⟩, []⟩ }

/-- WholeWalkComputesTranslation (its second result), CleanWalk, ReadsOfAWalk, FinishedWalkExactlyAtLevel2's second clause: the source's scenario meets every hypothesis
of the three ticks. -/
theorem witness_whole_walk :
    ∃ t1 t2 t3, (scenario 0xD0388DB3).walkState = .idle ∧ (scenario 0xD0388DB3).inputs = ⟨0xD0388DB3, true, false, .read⟩ ∧
      step (scenario 0xD0388DB3) = .next t1 ∧ t1.inputs = ⟨0xD0388DB3, true, false, .read⟩ ∧
      t1.mem = (scenario 0xD0388DB3).mem ∧ (t1.mem.read 0xFFEFFF40).getLsbD 31 = true ∧
      step t1 = .next t2 ∧ t2.inputs = ⟨0xD0388DB3, true, false, .read⟩ ∧ t2.mem = (scenario 0xD0388DB3).mem ∧
      (t2.mem.read 0xFFF1AF88).getLsbD 31 = true ∧ (t2.mem.read 0xFFF1AF88).getLsbD 27 = true ∧
      step t2 = .next t3 ∧ t3.port.memRen = true :=
  ⟨_, _, _, rfl, rfl, rfl, rfl, rfl, rfl, rfl, rfl, rfl, rfl, rfl, rfl, rfl⟩

/-- Level1FaultEndsWalk, and WholeWalkComputesTranslation's first result: the unpopulated root entry of trace P2. -/
theorem witness_level1_fault_walk :
    ∃ t1 t2 t3, (scenario 0x12345678).walkState = .idle ∧ (scenario 0x12345678).inputs = ⟨0x12345678, true, false, .read⟩ ∧
      step (scenario 0x12345678) = .next t1 ∧ t1.inputs = ⟨0x12345678, true, false, .read⟩ ∧
      (t1.mem.read 0xFFEFFC48).getLsbD 31 = false ∧ step t1 = .next t2 ∧ step t2 = .next t3 :=
  ⟨_, _, _, rfl, rfl, rfl, rfl, rfl, rfl, rfl⟩

/-- BackToBackWalks: the tick after a LEVEL2 tick, and after a level-1 fault, with `new_request` held at 1. -/
theorem witness_back_to_back :
    (∃ t, step { scenario 0 with walkState := .level2 } = .next t ∧ t.inputs.reset = false ∧ t.inputs.newRequest = true) ∧
    ({ scenario 0 with walkState := .level1 }.mem.read 0).getLsbD 31 = false ∧
    ∃ t, step { scenario 0 with walkState := .level1 } = .next t ∧ t.inputs.reset = false ∧ t.inputs.newRequest = true :=
  ⟨⟨_, rfl, rfl, rfl⟩, rfl, _, rfl, rfl, rfl⟩

/-- PseudoOperationsExpand: each macro as the head of a stimulus, over an idle state. -/
theorem witness_pseudo_operations :
    State.reset.walkState = .idle ∧
    { State.reset with stimulus := traceReset 3 true .write ++ traceIdle 4 }.stimulus =
      traceReset 3 true .write ++ traceIdle 4 ∧
    { State.reset with stimulus := traceIdle 4 ++ [] }.stimulus = traceIdle 4 ++ [] ∧
    { State.reset with stimulus := traceWalk 5 .read ++ traceIdle 4 }.stimulus = traceWalk 5 .read ++ traceIdle 4 := by
  decide

/-- UnpopulatedAddressBehaviour: an address the Memory does not list, at LEVEL1 and at LEVEL2. -/
theorem witness_unpopulated :
    (∀ c ∈ (at_ .level1 1 0 0 false false .read).mem, c.1 ≠ (at_ .level1 1 0 0 false false .read).nextAddr.toNat) ∧
    (∀ c ∈ (at_ .level2 1 0 0 false false .write).mem, c.1 ≠ (at_ .level2 1 0 0 false false .write).nextAddr.toNat) := by
  decide

/-- A walk start after which other agents put three words, the second of them in the root entry the walk reads, and a
second tick after which they put none. -/
def poked : State :=
  traceState [] .idle 0
    [⟨⟨0x12345678, true, false, .read⟩, [(0xFFEFFC48, 0), (0xFFEFFC48, 0x80000001), (7, 1)]⟩,
     Stimulus.tick 0x12345678 false false .read]

/-- MemoryChangesOnlyByOtherAgents (address 8), TableChangeSeenByNextRead: the changed entry is not the last word put, and
was put twice; the read of the next tick is of it, and it is reached untouched one tick further. -/
theorem witness_poke :
    poked.mem.wf = true ∧ (∀ p ∈ poked.now.pokes, p.1 ≠ 8) ∧
      poked.now.pokes = [(0xFFEFFC48, 0)] ++ (0xFFEFFC48, 0x80000001) :: [(7, 1)] ∧
      (∀ q ∈ [((7 : Addr), (1 : Word))], q.1 ≠ 0xFFEFFC48) ∧
      ∃ t, step poked = .next t ∧ t.nextAddr = 0xFFEFFC48 ∧ ReachesUntouched 0xFFEFFC48 t t ∧
        ∃ u, step t = .next u ∧ ReachesUntouched 0xFFEFFC48 t u :=
  ⟨by decide, by simp [poked, traceState, State.now], rfl, by simp, _, rfl, rfl, .here, _, rfl, .later .here (fun _ h => nomatch h) rfl⟩

/-- CanonicalMemoryIsUnique: a canonical Memory, with words at both ends of the address space. -/
theorem witness_canonical : Memory.wf [(0, 1), (0xFFFFFFFF, 2)] = true := by decide

end Sys2Proof.Tests
end

section
/-! Proofs for spec/00_scope.md: the PTW has no memory-write path (R7, R43). What an operation and a step do to the fields
beside the registers is said once; the two statements follow from it. -/

namespace Sys2Proof.Machine

/-- The frame of every operation: the Memory, the stimulus and the draw counter. -/
theorem exec_next_keeps_surroundings {i : Instr} {s t : State} (h : exec i s = .next t) :
    t.mem = s.mem ∧ t.stimulus = s.stimulus ∧ t.draw = s.draw := by
  obtain ⟨ws, na, o, rfl⟩ := exec_next_is_commit h
  exact ⟨State.commit_mem s ws na o, State.commit_stimulus s ws na o, State.commit_draw s ws na o⟩

/-- Every step that answers a next state is one clock edge followed by the passage to the next tick. -/
theorem step_next_is_commit_advance {s t : State} (h : step s = .next t) :
    ∃ ws na o, t = (s.commit ws na o).advance := by
  obtain ⟨u, hu, rfl⟩ := step_next h
  obtain ⟨ws, na, o, rfl⟩ := exec_next_is_commit hu
  exact ⟨ws, na, o, rfl⟩

/-- The Memory of the next tick is this tick's with the other agents' words put in it, and nothing else (R7, R54). -/
theorem step_next_mem {s t : State} (h : step s = .next t) : t.mem = s.mem.poke s.now.pokes := by
  obtain ⟨ws, na, o, rfl⟩ := step_next_is_commit_advance h
  rw [State.advance_mem, State.commit_mem, State.commit_now]

/-- Settles O15: the reads are unchanged because the Memory is. -/
theorem operationsStoreNothing : Obligations.OperationsStoreNothing := by
  intro i s t h
  obtain ⟨hmem, hstim, hdraw⟩ := exec_next_keeps_surroundings h
  exact ⟨fun a => by rw [hmem], hmem, hstim, hdraw⟩

/-- Settles O54: a step only pokes the Memory, and poking other addresses leaves the word at `a`. -/
theorem memoryChangesOnlyByOtherAgents : Obligations.MemoryChangesOnlyByOtherAgents := by
  intro s t h a untouched
  rw [step_next_mem h]
  exact Memory.read_poke_other s.mem s.now.pokes a untouched

end Sys2Proof.Machine
end

section
/-! Proofs for spec/10_state.md: what a step leaves in the two registers (R37), on the memory port (R29) and of the
invariant, and the two things no tick reads: the idle fetch address (R33) and the outputs of the tick before (R20). -/

namespace Sys2Proof.Machine

/-- The stages a step can enter: idle, or a busy stage from its one predecessor, with the fetch address issued there
(R37, R99). The three cases exclude each other. -/
theorem step_next_stage {s t : State} (h : step s = .next t) :
    (t.walkState = .idle) ∨
    (t.walkState = .level1 ∧ s.walkState = .idle ∧ s.inputs.reset = false ∧ s.inputs.newRequest = true ∧
      t.nextAddr = rootFetchAddr (l1Index s.inputs.virtualAddr)) ∨
    (t.walkState = .level2 ∧ s.walkState = .level1 ∧ s.inputs.reset = false ∧ entryValid s.rdata = true ∧
      t.nextAddr = leafFetchAddr s.rdata (l2Index s.inputs.virtualAddr)) := by
  obtain hr | ⟨hr, hs, hn⟩ | ⟨hr, hs, hn⟩ | ⟨hr, hs, hv⟩ | ⟨hr, hs, hv⟩ | ⟨hr, hs⟩ | ⟨hr, hs⟩ := s.tick_cases
  · cases (step_reset hr).symm.trans h
    exact .inl rfl
  · cases (step_idle_wait hr hs hn).symm.trans h
    exact .inl rfl
  · cases (step_idle_start hr hs hn).symm.trans h
    exact .inr (.inl ⟨rfl, hs, hr, hn, rfl⟩)
  · cases (step_l1_fault hr hs hv).symm.trans h
    exact .inl rfl
  · cases (step_l1_descend hr hs hv).symm.trans h
    exact .inr (.inr ⟨rfl, hs, hr, hv, rfl⟩)
  · cases (step_l2_finish hr hs).symm.trans h
    exact .inl rfl
  · cases (step_unused3 hr hs).symm.trans h

/-- What the next tick's observer finds on the port is what this tick drove (R29). -/
theorem step_next_port {s t : State} (h : step s = .next t) : t.port = s.portNow := by
  obtain ⟨ws, na, o, rfl⟩ := step_next_is_commit_advance h
  rw [State.advance_port, State.commit_port]

/-- Settles O17: the Memory is only poked, and a step that enters LEVEL1 issues a root fetch. -/
theorem stepKeepsLegalState : Obligations.StepKeepsLegalState := by
  rintro s t ⟨hwf, -, -⟩ h
  have hmem : t.mem.wf = true := by
    rw [step_next_mem h]
    exact Memory.poke_wf s.mem s.now.pokes hwf
  obtain ht | ⟨ht, -, -, -, hna⟩ | ⟨ht, -⟩ := step_next_stage h
  · exact ⟨hmem, by simp [ht], by simp [ht]⟩
  · exact ⟨hmem, by simp [ht], fun _ => by rw [hna, rootFetchAddr_upper]⟩
  · exact ⟨hmem, by simp [ht], by simp [ht]⟩

/-- Settles O24: the case of `step_next_stage` that the entered stage picks, its fields written on bits. -/
theorem busyTickHistory : Obligations.BusyTickHistory := by
  intro s t h
  obtain ht | ⟨ht, hs, hr, hn, hna⟩ | ⟨ht, hs, hr, hv, hna⟩ := step_next_stage h
  · simp [ht]
  · exact ⟨by simp [ht], fun _ => ⟨hs, hr, hn, hna⟩, by simp [ht]⟩
  · exact ⟨by simp [ht], by simp [ht], fun _ => ⟨hs, hr, hv, hna⟩⟩

/-- Settles O31: an idle tick reads the inputs only, so the busy stages' conditions of `ticksAgree_of` do not arise. -/
theorem idleFetchAddressUnobservable : Obligations.IdleFetchAddressUnobservable := by
  intro s a hidle
  refine ticksAgree_of rfl rfl ?hi ?h1 ?h2
  case hi => exact fun _ => ⟨rfl, rfl⟩
  case h1 => simp [hidle]
  case h2 => simp [hidle]

/-- Settles O32: everything a stage reads is a register, an input or the fetched word, and those are kept. -/
theorem outputsAreNotStored : Obligations.OutputsAreNotStored := by
  intro s o p
  refine ticksAgree_of rfl rfl ?hi ?h1 ?h2
  case hi => exact fun _ => ⟨rfl, rfl⟩
  case h1 => exact fun _ => ⟨rfl, rfl, rfl, rfl, rfl⟩
  case h2 => exact fun _ => ⟨rfl, rfl, rfl, rfl, rfl, rfl, rfl, rfl⟩

/-- Settles O38: the port driven is `portNow`, whatever the operation, and it reads when the PTW is busy. -/
theorem memoryPortFollowsRegisters : Obligations.MemoryPortFollowsRegisters := by
  intro s t h
  rw [step_next_port h]
  exact ⟨State.portNow_memAddr s, isBusy_iff s.walkState⟩

/-- Settles O18: an empty list of words is in canonical form, and the root-table clause asks nothing while idle. -/
theorem resetStateIsLegal : Obligations.ResetStateIsLegal :=
  ⟨rfl, by simp, by simp⟩

/-- Settles O19: both values stand in the definitions. -/
theorem resetLeavesIdle : Obligations.ResetLeavesIdle :=
  ⟨State.reset_walkState, rfl⟩

end Sys2Proof.Machine
end

section
/-! Proofs for spec/20_memory.md: the Memory's canonical form and what reads of it see (R40, R46, R57), the addresses of
the two tables (R47, R48), and the translation a whole walk computes (R50). -/

namespace Sys2Proof.Machine

section CanonicalForm

theorem Memory.wfFrom_cons_iff (lo k : Nat) (w : Word) (m : Memory) :
    Memory.wfFrom lo ((k, w) :: m) = true ↔
      lo ≤ k ∧ k < 2 ^ 32 ∧ w ≠ Memory.unlisted ∧ m.wfFrom (k + 1) = true := by
  simp [Memory.wfFrom, and_assoc]

@[simp] theorem Memory.lookup_cons_same (k : Nat) (w : Word) (m : Memory) :
    Memory.lookup ((k, w) :: m) k = w :=
  if_pos rfl

theorem Memory.lookup_cons_of_ne {k a : Nat} (w : Word) (m : Memory) (h : k ≠ a) :
    Memory.lookup ((k, w) :: m) a = m.lookup a :=
  if_neg h

/-- A canonical list that starts at `lo` lists nothing below it. -/
theorem Memory.lookup_below {m : Memory} {lo a : Nat} (h : m.wfFrom lo = true) (ha : a < lo) :
    m.lookup a = Memory.unlisted := by
  induction m generalizing lo with
  | nil => rfl
  | cons c m ih =>
    obtain ⟨k, w⟩ := c
    obtain ⟨hlo, -, -, htail⟩ := (Memory.wfFrom_cons_iff lo k w m).mp h
    rw [Memory.lookup_cons_of_ne w m (by omega)]
    exact ih htail (by omega)

/-- The first word of a canonical list is no word of a list that starts above it: that one reads `unlisted` there. -/
theorem Memory.lookup_ne_head {k lo : Nat} {w : Word} {m n : Memory} (hm : Memory.wfFrom lo ((k, w) :: m) = true)
    (hn : n.wfFrom (k + 1) = true) : n.lookup k ≠ Memory.lookup ((k, w) :: m) k := by
  obtain ⟨-, -, hw, -⟩ := (Memory.wfFrom_cons_iff lo k w m).mp hm
  rw [Memory.lookup_below hn (by omega), Memory.lookup_cons_same]
  exact hw.symm

/-- Of two canonical lists that read alike, neither starts above the other. -/
theorem Memory.head_le_of_lookup_eq {k j lo : Nat} {w x : Word} {m n : Memory}
    (hm : Memory.wfFrom lo ((k, w) :: m) = true) (hn : Memory.wfFrom lo ((j, x) :: n) = true)
    (h : ∀ a < 2 ^ 32, Memory.lookup ((k, w) :: m) a = Memory.lookup ((j, x) :: n) a) : j ≤ k := by
  obtain ⟨-, hk, -, -⟩ := (Memory.wfFrom_cons_iff lo k w m).mp hm
  obtain ⟨-, hj, hx, htail⟩ := (Memory.wfFrom_cons_iff lo j x n).mp hn
  by_contra hkj
  have habove : Memory.wfFrom (k + 1) ((j, x) :: n) = true :=
    (Memory.wfFrom_cons_iff (k + 1) j x n).mpr ⟨by omega, hj, hx, htail⟩
  exact Memory.lookup_ne_head hm habove (h k hk).symm

/-- Two canonical lists with the same first address that read alike have tails that read alike. -/
theorem Memory.tail_lookup_eq {k lo lo' : Nat} {w x : Word} {m n : Memory}
    (hm : Memory.wfFrom lo ((k, w) :: m) = true) (hn : Memory.wfFrom lo' ((k, x) :: n) = true)
    (h : ∀ a < 2 ^ 32, Memory.lookup ((k, w) :: m) a = Memory.lookup ((k, x) :: n) a) :
    ∀ a < 2 ^ 32, m.lookup a = n.lookup a := by
  intro a ha
  obtain ⟨-, -, -, hm'⟩ := (Memory.wfFrom_cons_iff lo k w m).mp hm
  obtain ⟨-, -, -, hn'⟩ := (Memory.wfFrom_cons_iff lo' k x n).mp hn
  by_cases hka : k = a
  · rw [Memory.lookup_below hm' (by omega), Memory.lookup_below hn' (by omega)]
  · simpa only [Memory.lookup_cons_of_ne _ _ hka] using h a ha

theorem Memory.eq_of_lookup_eq {m n : Memory} {lo : Nat} (hm : m.wfFrom lo = true) (hn : n.wfFrom lo = true)
    (h : ∀ a < 2 ^ 32, m.lookup a = n.lookup a) : m = n := by
  induction m generalizing n lo with
  | nil =>
    cases n with
    | nil => rfl
    | cons d n =>
      obtain ⟨j, x⟩ := d
      obtain ⟨-, hj, -, -⟩ := (Memory.wfFrom_cons_iff lo j x n).mp hn
      exact absurd (h j hj) (Memory.lookup_ne_head hn rfl)
  | cons c m ih =>
    obtain ⟨k, w⟩ := c
    obtain ⟨-, hk, -, hm'⟩ := (Memory.wfFrom_cons_iff lo k w m).mp hm
    cases n with
    | nil => exact absurd (h k hk).symm (Memory.lookup_ne_head hm rfl)
    | cons d n =>
      obtain ⟨j, x⟩ := d
      obtain rfl : j = k := le_antisymm (Memory.head_le_of_lookup_eq hm hn h)
        (Memory.head_le_of_lookup_eq hn hm fun a ha => (h a ha).symm)
      obtain ⟨-, -, -, hn'⟩ := (Memory.wfFrom_cons_iff lo j x n).mp hn
      have hhead : w = x := by simpa only [Memory.lookup_cons_same] using h j hk
      have htail : m = n := ih hm' hn' (Memory.tail_lookup_eq hm hn h)
      rw [hhead, htail]

/-- Settles O56: reading alike at every 32-bit address is reading alike at every number below 2^32. -/
theorem canonicalMemoryIsUnique : Obligations.CanonicalMemoryIsUnique := by
  intro m m' hm hm' h
  refine Memory.eq_of_lookup_eq hm hm' fun a ha => ?_
  simpa only [Memory.read, BitVec.toNat_ofNat, Nat.mod_eq_of_lt ha] using h (BitVec.ofNat 32 a)

end CanonicalForm

section TableChanges

/-- Of the words put one after another, the last one put at an address is what it then holds. -/
theorem Memory.read_poke_last {m : Memory} {a : Addr} {w : Word} {qs : List (Addr × Word)} (ps : List (Addr × Word))
    (hm : m.wf = true) (hqs : ∀ q ∈ qs, q.1 ≠ a) : (m.poke (ps ++ (a, w) :: qs)).read a = w := by
  rw [Memory.poke_append]
  calc (((m.poke ps).write a w).poke qs).read a
      = ((m.poke ps).write a w).read a := Memory.read_poke_other _ qs a hqs
    _ = w := Memory.read_write_same _ a w (Memory.poke_wf m ps hm)

theorem ReachesUntouched.read_eq {a : Addr} {s u : State} (h : ReachesUntouched a s u) :
    u.mem.read a = s.mem.read a := by
  induction h with
  | here => rfl
  | later _ untouched next ih => exact (memoryChangesOnlyByOtherAgents _ _ next a untouched).trans ih

/-- Settles O55: the step puts the words, `w` last at `a`, and `a` then keeps it while it is untouched. -/
theorem tableChangeSeenByNextRead : Obligations.TableChangeSeenByNextRead := by
  intro s t a w ps qs hwf hpokes hqs hstep u hu
  have hread : u.mem.read a = w := by
    rw [hu.read_eq, step_next_mem hstep, hpokes]
    exact Memory.read_poke_last ps hwf hqs
  exact ⟨hread, fun hna => by rw [State.rdata, hna, hread]⟩

end TableChanges

section UnpopulatedEntry

theorem Memory.read_not_listed {m : Memory} {a : Addr} (h : ∀ c ∈ m, c.1 ≠ a.toNat) : m.read a = 0 :=
  Memory.lookup_not_listed m a.toNat h

/-- The code of an invalid leaf that grants nothing: the permission the request needs is missing (R128, D1). -/
theorem leafCode_invalid_ungranted (rt : RequestType) :
    leafCode true false false rt = if rt = .read then 2 else 4 := by
  cases rt <;> rfl

/-- Settles O53: the fetched word is 0, so the LEVEL1 tick is the fault row and the LEVEL2 tick shows the fields of 0. -/
theorem unpopulatedAddressBehaviour : Obligations.UnpopulatedAddressBehaviour := by
  intro s hlisted
  have hzero : s.rdata = 0 := Memory.read_not_listed hlisted
  refine ⟨hzero, fun hr hs => ?level1, fun hr hs => ?level2⟩
  case level1 =>
    have hv : entryValid s.rdata = false := by rw [hzero]; rfl
    exact ⟨_, step_l1_fault hr hs hv, rfl, rfl, congrArg entryDirty hzero, congrArg entryReferenced hzero, rfl⟩
  case level2 =>
    have hstep := step_l2_finish hr hs
    rw [hzero] at hstep
    exact ⟨_, hstep, rfl, rfl, rfl, rfl, rfl, leafCode_invalid_ungranted s.inputs.requestType⟩

end UnpopulatedEntry

section WholeWalk

theorem walkTranslation_of_l1_invalid {m : Memory} {va : Addr} {e1 : Word} (rt : RequestType)
    (he1 : e1 = m.read (rootFetchAddr (l1Index va))) (hv : entryValid e1 = false) :
    walkTranslation m va rt = .l1Fault (entryDirty e1) (entryReferenced e1) := by
  subst he1
  simp [walkTranslation, hv]

theorem walkTranslation_of_l1_valid {m : Memory} {va : Addr} {e1 e2 : Word} (rt : RequestType)
    (he1 : e1 = m.read (rootFetchAddr (l1Index va))) (hv : entryValid e1 = true)
    (he2 : e2 = m.read (leafFetchAddr e1 (l2Index va))) :
    walkTranslation m va rt =
      .finished (physAddr e2 (pageOffset va)) (entryValid e2) (entryDirty e2) (entryReferenced e2)
        (leafCode (!entryValid e2) (entryReadable e2) (entryWritable e2) rt) := by
  subst he1 he2
  simp [walkTranslation, hv]

theorem State.rdata_eq {s : State} {m : Memory} {a : Addr} (hmem : s.mem = m) (hna : s.nextAddr = a) :
    s.rdata = m.read a := by
  rw [State.rdata, hmem, hna]

/-- Settles O43: the second tick reads the root entry, and its `valid` bit picks the ending; the third reads the leaf. -/
theorem wholeWalkComputesTranslation : Obligations.WholeWalkComputesTranslation := by
  intro s va rt hs hr hn hva
  obtain ⟨t1, hstep1, hs1, hna1, hcode1, hfin1⟩ : ∃ t1, step s = .next t1 ∧ t1.walkState = .level1 ∧
      t1.nextAddr = rootFetchAddr (l1Index va) ∧ t1.out.errorCode = 0 ∧ t1.out.finishedWalk = false :=
    ⟨_, step_idle_start hr hs hn, rfl, by rw [← hva]; rfl, rfl, rfl⟩
  refine ⟨t1, hstep1, hcode1, hfin1, fun hr1 hva1 hmem1 => ?_⟩
  have he1 : t1.rdata = s.mem.read (rootFetchAddr (l1Index va)) := State.rdata_eq hmem1 hna1
  cases hv : entryValid t1.rdata with
  | false =>
    rw [walkTranslation_of_l1_invalid rt he1 hv]
    exact ⟨_, step_l1_fault hr1 hs1 hv, rfl, rfl, rfl, rfl, rfl, rfl⟩
  | true =>
    obtain ⟨t2, hstep2, hs2, hna2, hcode2, hfin2⟩ : ∃ t2, step t1 = .next t2 ∧ t2.walkState = .level2 ∧
        t2.nextAddr = leafFetchAddr t1.rdata (l2Index va) ∧ t2.out.errorCode = 0 ∧ t2.out.finishedWalk = false :=
      ⟨_, step_l1_descend hr1 hs1 hv, rfl, by rw [← hva1]; rfl, rfl, rfl⟩
    rw [walkTranslation_of_l1_valid rt he1 hv rfl]
    refine ⟨t2, hstep2, hfin2, hcode2, fun hr2 hva2 hrt2 hmem2 => ?_⟩
    have he2 : t2.rdata = s.mem.read (leafFetchAddr t1.rdata (l2Index va)) := State.rdata_eq hmem2 hna2
    refine ⟨_, step_l2_finish hr2 hs2, rfl, ?_⟩
    rw [State.advance_out, State.commit_out, he2, hva2, hrt2]

end WholeWalk

section TableAddresses

/-- Settles O51: the base's 22 bits above the index, as a number. -/
theorem rootTableAddresses : Obligations.RootTableAddresses := by
  intro i
  have hbase : Config.base.toNat = 0x3FFBFF := rfl
  have haddr := rootFetchAddr_toNat i
  have hi := i.isLt
  omega

/-- Settles O52: the entry's low 22 bits above the index, as a number. -/
theorem leafTableAddresses : Obligations.LeafTableAddresses := by
  intro e1 j
  refine ⟨leafFetchAddr_toNat e1 j, ?_⟩
  rw [leafFetchAddr_toNat]
  simp

end TableAddresses

end Sys2Proof.Machine
end

section
/-! Proofs for spec/30_encoding.md: the control word, the operation map and the decoder (R69, R70), the operations that
complete (R71), the entry bits no tick looks at (R72), and the pseudo-operations of a trace (R76). -/

namespace Sys2Proof

section ControlWord

/-- A control word is the packing of its own four fields (R69). -/
theorem packControlWord_fields (cw : BitVec 5) :
    packControlWord (cwReset cw) (cwState cw) (cwNewRequest cw) (cwEntryValid cw) = cw := by
  revert cw
  decide

/-- Bits 3 to 2 of a packed control word are the code of its state value (R63, R69). -/
theorem packControlWord_stateBits (r : Bool) (ss : WalkState) (n v : Bool) :
    (packControlWord r ss n v).extractLsb' 2 2 = ss.code := by
  cases r <;> cases ss <;> cases n <;> cases v <;> rfl

@[simp] theorem decode_encode (i : Instr) : decode (encode i) = i := by
  cases i <;> simp [encode, decode]

/-- The operation decoded holds the free fields as its letters, and its row fixes the others at what they are. -/
theorem encode_decode_eq_pack (cw : BitVec 5) :
    encode (decode cw) = packControlWord (cwReset cw) (cwState cw) (cwNewRequest cw) (cwEntryValid cw) := by
  cases hr : cwReset cw with
  | true => simp [decode, hr, encode]
  | false =>
    cases hs : cwState cw with
    | idle => cases hn : cwNewRequest cw <;> simp [decode, hr, hs, hn, encode]
    | level1 => cases hv : cwEntryValid cw <;> simp [decode, hr, hs, hv, encode]
    | level2 => simp [decode, hr, hs, encode]
    | unused3 => simp [decode, hr, hs, encode]

@[simp] theorem encode_decode (cw : BitVec 5) : encode (decode cw) = cw :=
  (encode_decode_eq_pack cw).trans (packControlWord_fields cw)

/-- A control word, written as a number of the opcode table, is read back as itself. -/
theorem decodeTableWord_toNat (nbits : Nat) (cw : BitVec 5) : decodeTableWord nbits cw.toNat = some (decode cw) := by
  have hcw : cw.toNat < 32 := cw.isLt
  have hbyte : (BitVec.ofNat 8 cw.toNat).toNat = cw.toNat := by
    rw [BitVec.toNat_ofNat]
    omega
  have hdecode : decodeByte (BitVec.ofNat 8 cw.toNat) = .ok (decode cw) := by
    rw [decodeByte, hbyte, if_pos hcw, BitVec.setWidth_ofNat_of_le (by omega), BitVec.ofNat_toNat, BitVec.setWidth_eq]
  rw [decodeTableWord, if_pos (by omega), hdecode]

/-- Settles O1: the letters of an operation are the fields of its packing, and a table word is a control word. -/
theorem controlWordDecodeEncodeRoundTrip : Obligations.ControlWordDecodeEncodeRoundTrip :=
  ⟨decode_encode, encode_decode, fun i => by rw [decodeTableWord_toNat, decode_encode]⟩

/-- Settles O3: each word is the encoding of its operation, and the byte has bit 5 set. -/
theorem controlWordsOfTheSpecDecode : Obligations.ControlWordsOfTheSpecDecode :=
  ⟨decode_encode (.opIdleWait false), decode_encode (.opIdleStart true), decode_encode (.opL1Descend false),
    decode_encode (.opL1Descend true), decode_encode (.opL1Fault false), decode_encode (.opL1Fault true),
    decode_encode (.opL2Finish false true), decode_encode (.opL2Finish true false),
    decode_encode (.opReset .level1 false true), decode_encode (.opReset .level2 false true),
    decode_encode (.reservedState3 false false), rfl⟩

end ControlWord

section OperationMap

theorem tableRow_statement (i : Instr) : Laws.TableRow.Statement i := by
  cases i with
  | opReset ss n v => exact Laws.TableRow.opReset ss n v
  | opIdleWait v => exact Laws.TableRow.opIdleWait v
  | opIdleStart v => exact Laws.TableRow.opIdleStart v
  | opL1Fault n => exact Laws.TableRow.opL1Fault n
  | opL1Descend n => exact Laws.TableRow.opL1Descend n
  | opL2Finish n v => exact Laws.TableRow.opL2Finish n v
  | reservedState3 n v => exact Laws.TableRow.reservedState3 n v

/-- One row of the operation map has the operation's name, and it selects the operation's control word (R70). -/
theorem exists_row_of_instr (i : Instr) :
    ∃ r, (opTable.filter fun q => q.mnemonic == i.mnemonic) = [r] ∧ r.selects (encode i) = true :=
  List.map_eq_singleton_iff.mp (tableRow_statement i)

/-- The rows are disjoint (R70): two rows that select the same control word are one. -/
theorem OpRow.eq_of_selects {cw : BitVec 5} {r q : OpRow} (hr : r ∈ opTable) (hq : q ∈ opTable)
    (hrs : r.selects cw = true) (hqs : q.selects cw = true) : r = q := by
  obtain ⟨x, hx⟩ := List.length_eq_one_iff.mp (Tests.test_one_row_per_control_word cw)
  have only : ∀ p ∈ opTable, p.selects cw = true → p = x := fun p hp hps =>
    List.mem_singleton.mp (hx ▸ List.mem_filter.mpr ⟨hp, hps⟩)
  exact (only r hr hrs).trans (only q hq hqs).symm

/-- The decoder names a row exactly when that row's match and mask select the word: the row of the operation's own name
does, and no other row can. -/
theorem decode_mnemonic_iff (cw : BitVec 5) {r : OpRow} (hr : r ∈ opTable) :
    (decode cw).mnemonic = r.mnemonic ↔ cw &&& r.mask = r.matchBits := by
  obtain ⟨q, hrow, hsel⟩ := exists_row_of_instr (decode cw)
  rw [encode_decode] at hsel
  obtain ⟨hq, hname⟩ := List.mem_filter.mp (hrow ▸ List.mem_singleton_self q)
  have hselects : r.selects cw = true ↔ cw &&& r.mask = r.matchBits := beq_iff_eq
  rw [← hselects]
  constructor
  · intro h
    have hmem : r ∈ [q] := hrow ▸ List.mem_filter.mpr ⟨hr, beq_iff_eq.mpr h.symm⟩
    rwa [List.mem_singleton.mp hmem]
  · intro h
    rw [OpRow.eq_of_selects hr hq h hsel]
    exact (beq_iff_eq.mp hname).symm

/-- Settles O2: `decode_mnemonic_iff` at each of the seven rows. -/
theorem operationMapMatchAndMask : Obligations.OperationMapMatchAndMask := by
  intro cw
  have hrows : ∀ r ∈ opTable, ((decode cw).mnemonic = r.mnemonic ↔ cw &&& r.mask = r.matchBits) :=
    fun _ => decode_mnemonic_iff cw
  simpa only [opTable, List.forall_mem_cons, List.not_mem_nil, false_imp_iff, implies_true, and_true] using hrows

end OperationMap

namespace Machine

section Operations

/-- Settles O4: the four fields of the packing, read back. -/
theorem controlWordBits : Obligations.ControlWordBits := by
  intro s
  refine ⟨cwReset_pack _ _ _ _, ?stateBits, cwNewRequest_pack _ _ _ _, cwEntryValid_pack _ _ _ _⟩
  case stateBits =>
    refine (packControlWord_stateBits _ _ _ _).trans ?_
    cases s.walkState <;> rfl

/-- Settles O14: each row with a meaning commits a clock edge, and the reserved row faults. -/
theorem wellFormedOperationsComplete : Obligations.WellFormedOperationsComplete := by
  intro i s
  cases i with
  | opReset | opIdleWait | opIdleStart | opL1Fault | opL1Descend | opL2Finish => exact ⟨fun _ => rfl, fun _ => ⟨_, rfl⟩⟩
  | reservedState3 => exact ⟨nofun, nofun⟩

end Operations

section IgnoredBits

/-- Words equal under a mask have equal bits wherever the mask has a 1. -/
theorem getLsbD_eq_of_and_eq {e e' m : Word} (h : e &&& m = e' &&& m) {i : Nat} (hi : m.getLsbD i = true) :
    e.getLsbD i = e'.getLsbD i := by
  simpa only [BitVec.getLsbD_and, hi, Bool.and_true] using congrArg (·.getLsbD i) h

/-- Words equal under a mask have equal low fields where the mask is all ones. -/
theorem extractLsb'_eq_of_and_eq {e e' m : Word} {n : Nat} (h : e &&& m = e' &&& m)
    (hm : m.extractLsb' 0 n = BitVec.allOnes n) : e.extractLsb' 0 n = e'.extractLsb' 0 n := by
  simpa only [BitVec.extractLsb'_and, hm, BitVec.and_allOnes] using congrArg (·.extractLsb' 0 n) h

theorem State.withEntry_rdata {s : State} (h : s.mem.wf = true) (e : Word) : (s.withEntry e).rdata = e :=
  Memory.read_write_same s.mem s.nextAddr e h

/-- Settles O30: the fields a busy stage reads lie in the bits of its mask. -/
theorem ignoredEntryBitsHaveNoEffect : Obligations.IgnoredEntryBitsHaveNoEffect := by
  intro s e e' hwf
  have he := State.withEntry_rdata hwf e
  have he' := State.withEntry_rdata hwf e'
  refine ⟨fun hs hmask => ?level1, fun hs hmask => ?level2⟩
  case level1 =>
    have hbase : entryNextBase e = entryNextBase e' := extractLsb'_eq_of_and_eq hmask rfl
    refine ticksAgree_of rfl rfl (by simp [hs]) (fun _ => ?_) (by simp [hs])
    rw [he, he']
    exact ⟨rfl, getLsbD_eq_of_and_eq hmask rfl, getLsbD_eq_of_and_eq hmask rfl, getLsbD_eq_of_and_eq hmask rfl,
      congrArg (· ++ l2Index s.inputs.virtualAddr) hbase⟩
  case level2 =>
    have hframe : entryFrame e = entryFrame e' := extractLsb'_eq_of_and_eq hmask rfl
    refine ticksAgree_of rfl rfl (by simp [hs]) (by simp [hs]) (fun _ => ?_)
    rw [he, he']
    exact ⟨rfl, getLsbD_eq_of_and_eq hmask rfl, getLsbD_eq_of_and_eq hmask rfl, getLsbD_eq_of_and_eq hmask rfl,
      getLsbD_eq_of_and_eq hmask rfl, getLsbD_eq_of_and_eq hmask rfl, rfl,
      congrArg (· ++ pageOffset s.inputs.virtualAddr) hframe⟩

end IgnoredBits

section TickLines

variable {s t : State} {va : Addr} {nr rst : Bool} {rt : RequestType} {rest : List Stimulus}

theorem State.now_of_listed {st : Stimulus} (h : s.stimulus = st :: rest) : s.now = st := by
  rw [State.now, h]

theorem State.inputs_of_tick (h : s.stimulus = Stimulus.tick va nr rst rt :: rest) : s.inputs = ⟨va, nr, rst, rt⟩ := by
  rw [State.inputs, State.now_of_listed h, Stimulus.tick]

/-- A step uses up the head of the stimulus. -/
theorem step_next_stimulus (h : step s = .next t) : t.stimulus = s.stimulus.tail := by
  obtain ⟨ws, na, o, rfl⟩ := step_next_is_commit_advance h
  rw [State.advance_stimulus, State.commit_stimulus]

/-- A `TICK` line puts no words in the Memory (R75): its step leaves the Memory and the lines after it. -/
theorem step_next_of_tick (hstim : s.stimulus = Stimulus.tick va nr rst rt :: rest) (h : step s = .next t) :
    t.stimulus = rest ∧ t.mem = s.mem := by
  constructor
  · rw [step_next_stimulus h, hstim, List.tail_cons]
  · rw [step_next_mem h, State.now_of_listed hstim, Stimulus.tick, Memory.poke_nil]

/-- A `TICK` line without reset or request, met while idle, is an idle tick (R92). -/
theorem step_idle_of_tick (hs : s.walkState = .idle) (hstim : s.stimulus = Stimulus.tick va false false rt :: rest) :
    ∃ t, step s = .next t ∧ t.walkState = .idle ∧ t.out.errorCode = 0 ∧ t.out.finishedWalk = false := by
  have hin := State.inputs_of_tick hstim
  exact ⟨_, step_idle_wait (by rw [hin]) hs (by rw [hin]), rfl, rfl, rfl⟩

theorem step_traceReset (hstim : s.stimulus = traceReset va nr rt ++ rest) :
    ∃ t, step s = .next t ∧ t.walkState = .idle ∧ t.stimulus = rest ∧ t.mem = s.mem := by
  have hstep := step_reset (s := s) (by rw [State.inputs_of_tick hstim])
  exact ⟨_, hstep, rfl, step_next_of_tick hstim hstep⟩

theorem step_traceIdle (hs : s.walkState = .idle) (hstim : s.stimulus = traceIdle va ++ rest) :
    ∃ t, step s = .next t ∧ t.walkState = .idle ∧ t.stimulus = rest ∧ t.mem = s.mem ∧ t.out.finishedWalk = false := by
  obtain ⟨t, hstep, ht, -, hfin⟩ := step_idle_of_tick hs hstim
  obtain ⟨hrest, hmem⟩ := step_next_of_tick hstim hstep
  exact ⟨t, hstep, ht, hrest, hmem, hfin⟩

end TickLines

section PseudoOperations

/-- Settles O48: one reset row, one idle row, and for `WALK` the whole walk of R50, whose premises its three lines meet; a
walk that ends in its second tick leaves the third line to an idle tick. -/
theorem pseudoOperationsExpand : Obligations.PseudoOperationsExpand := by
  intro s va rt nr rest
  refine ⟨step_traceReset, step_traceIdle, fun hs hstim => ?walk⟩
  have hin := State.inputs_of_tick hstim
  obtain ⟨t1, hstep1, -, -, hwalk⟩ :=
    wholeWalkComputesTranslation s va rt hs (by rw [hin]) (by rw [hin]) (by rw [hin])
  obtain ⟨hstim1, hmem1⟩ := step_next_of_tick hstim hstep1
  have hin1 := State.inputs_of_tick hstim1
  obtain ⟨t2, hstep2, -, hend⟩ := hwalk (by rw [hin1]) (by rw [hin1]) hmem1
  obtain ⟨hstim2, hmem2⟩ := step_next_of_tick hstim1 hstep2
  cases hres : walkTranslation s.mem va rt with
  | l1Fault dirty referenced =>
    rw [hres] at hend
    obtain ⟨hidle2, hcode2, -⟩ := hend
    obtain ⟨t3, hstep3, hidle3, hcode3, hfin3⟩ := step_idle_of_tick hidle2 hstim2
    obtain ⟨hstim3, hmem3⟩ := step_next_of_tick hstim2 hstep3
    exact ⟨t1, t2, t3, hstep1, hstep2, hstep3, hidle3, hstim3, by rw [hmem3, hmem2, hmem1],
      hidle2, hcode2, hcode3, hfin3⟩
  | finished pa valid dirty referenced code =>
    rw [hres] at hend
    have hin2 := State.inputs_of_tick hstim2
    obtain ⟨-, hthird⟩ := hend
    obtain ⟨t3, hstep3, hidle3, hout3⟩ :=
      hthird (by rw [hin2]) (by rw [hin2]) (by rw [hin2]) (by rw [hmem2, hmem1])
    obtain ⟨hstim3, hmem3⟩ := step_next_of_tick hstim2 hstep3
    exact ⟨t1, t2, t3, hstep1, hstep2, hstep3, hidle3, hstim3, by rw [hmem3, hmem2, hmem1], hout3⟩

end PseudoOperations

end Machine

end Sys2Proof
end

section
/-! Proofs for spec/40_address_decoder.md: the decoder's formulas (R81 to R83), the partition of the address and its fields
in the assembled addresses (R85), and the one field each stage looks at (R87). -/

namespace Sys2Proof.Machine

section AddressDecoder

/-- A field as R82 and R83 write it: shifted down to bit 0, then masked to its length. -/
theorem extractLsb'_setWidth_eq_shift_mask (va : Addr) (start len : Nat) :
    (va.extractLsb' start len).setWidth 32 = va >>> start &&& BitVec.ofNat 32 (2 ^ len - 1) := by
  apply BitVec.eq_of_getLsbD_eq
  intro i hi
  simp only [BitVec.getLsbD_setWidth, BitVec.getLsbD_extractLsb', BitVec.getLsbD_and, BitVec.getLsbD_ushiftRight,
    BitVec.getLsbD_ofNat, Nat.testBit_two_pow_sub_one, hi, decide_true, Bool.true_and]
  exact Bool.and_comm _ _

/-- No mask is needed for `l1_index`: the shifted address is below 2^10 (R81). -/
theorem l1Index_setWidth_eq_shift (va : Addr) : (l1Index va).setWidth 32 = va >>> 22 := by
  apply BitVec.eq_of_toNat_eq
  rw [BitVec.toNat_setWidth, l1Index, BitVec.extractLsb'_toNat, BitVec.toNat_ushiftRight, Nat.shiftRight_eq_div_pow]
  have hva := va.isLt
  omega

/-- Settles O49: `l1_index` is a shift alone; the other two fields are a shift and a mask, the offset's shift being by 0. -/
theorem addressDecoderFormulas : Obligations.AddressDecoderFormulas := by
  intro va
  refine ⟨l1Index_setWidth_eq_shift va, extractLsb'_setWidth_eq_shift_mask va 12 10, ?offset⟩
  case offset =>
    have hoffset := extractLsb'_setWidth_eq_shift_mask va 0 12
    rwa [BitVec.ushiftRight_zero] at hoffset

/-- Neighbouring fields joined in address order give the address back (R85). -/
theorem decodeAddr_append (va : Addr) :
    (decodeAddr va).1 ++ ((decodeAddr va).2.1 ++ (decodeAddr va).2.2) = va := by
  have hlow : l2Index va ++ pageOffset va = va.extractLsb' 0 22 :=
    BitVec.extractLsb'_append_extractLsb'_eq_extractLsb' rfl
  calc l1Index va ++ (l2Index va ++ pageOffset va)
      = l1Index va ++ va.extractLsb' 0 22 := by rw [hlow]
    _ = va.extractLsb' 0 32 := BitVec.extractLsb'_append_extractLsb'_eq_extractLsb' rfl
    _ = va := BitVec.extractLsb'_eq_self

/-- Settles O50: the fields are adjacent, and each assembled address ends in the field appended to it. -/
theorem addressFieldsPartitionAndReappear : Obligations.AddressFieldsPartitionAndReappear :=
  fun va _ => ⟨decodeAddr_append va, BitVec.extractLsb'_append_eq_right, BitVec.extractLsb'_append_eq_right,
    BitVec.extractLsb'_append_eq_right⟩

end AddressDecoder

section FieldOfEachStage

/-- Settles O29: in `ticksAgree_of` each stage's condition names that stage's field, and no other part of the address. -/
theorem eachStageUsesOneAddressField : Obligations.EachStageUsesOneAddressField := by
  intro s i va va'
  refine ⟨fun hs hfield => ?idle, fun hs hfield => ?level1, fun hs hfield => ?level2⟩
  case idle =>
    refine ticksAgree_of rfl rfl (fun _ => ?_) (by simp [hs]) (by simp [hs])
    exact ⟨rfl, hfield⟩
  case level1 =>
    refine ticksAgree_of rfl rfl (by simp [hs]) (fun _ => ?_) (by simp [hs])
    exact ⟨rfl, rfl, rfl, rfl, congrArg (leafFetchAddr s.rdata) hfield⟩
  case level2 =>
    refine ticksAgree_of rfl rfl (by simp [hs]) (by simp [hs]) (fun _ => ?_)
    exact ⟨rfl, rfl, rfl, rfl, rfl, rfl, rfl, congrArg (physAddr s.rdata) hfield⟩

end FieldOfEachStage

end Sys2Proof.Machine
end

section
/-! Proofs for spec/41_walk_controller.md: the row of the transition table a tick runs (R90), the result of each operation
(R91 to R96, R101), the one stop (R101), the successor relation (R99), and back-to-back walks (R102). -/

namespace Sys2Proof.Machine

section Selection

/-- Settles O5: each clause fixes the fields of the control word that `State.selected_eq` branches on. -/
theorem selectionFollowsTransitionTable : Obligations.SelectionFollowsTransitionTable := by
  intro s
  rw [State.selected_eq]
  refine ⟨fun hr => ?reset, fun hr hs hn => ?idleStart, fun hr hs hn => ?idleWait, fun hr hs hv => ?l1Fault,
    fun hr hs hv => ?l1Descend, fun hr hs => ?l2Finish, fun hr hs => ?reserved⟩
  case reset => simp [hr]
  case idleStart => simp [hr, hs, hn]
  case idleWait => simp [hr, hs, hn]
  case l1Fault =>
    have hvalid : entryValid s.rdata = false := hv
    simp [hr, hs, hvalid]
  case l1Descend =>
    have hvalid : entryValid s.rdata = true := hv
    simp [hr, hs, hvalid]
  case l2Finish => simp [hr, hs]
  case reserved => simp [hr, hs]

/-- Every operation has a meaning: its arm answers a next state or, at `RESERVED_STATE3`, a fault. -/
theorem exec_ne_refused (i : Instr) (s : State) (r : Refusal) : exec i s ≠ .refused r := by
  cases i <;> exact nofun

/-- A fault of the selected operation is the step's. -/
theorem step_of_exec_fault {s : State} {f : Fault} (h : exec s.selected s = .fault f) : step s = .fault f := by
  rw [step, h]

/-- Settles O6: the operation commits one clock edge, which leaves the fields `State.advance` reads. -/
theorem stepRunsTheSelectedOperation : Obligations.StepRunsTheSelectedOperation := by
  rintro s i rfl
  refine ⟨fun t h => ?next, fun f => step_of_exec_fault, exec_ne_refused _ s⟩
  case next =>
    have hstep := step_of_exec_next h
    obtain ⟨ws, na, o, rfl⟩ := exec_next_is_commit h
    exact hstep

end Selection

section OperationResults

/-- In a busy stage the port presents the read of `next_addr` (R29). -/
theorem State.portNow_of_busy {s : State} (h : isBusy s.walkState = true) : s.portNow = ⟨s.nextAddr, true⟩ := by
  rw [State.portNow, h]

theorem State.portNow_of_level1 {s : State} (h : s.walkState = .level1) : s.portNow = ⟨s.nextAddr, true⟩ :=
  State.portNow_of_busy ((isBusy_iff _).mpr (.inl h))

theorem State.portNow_of_level2 {s : State} (h : s.walkState = .level2) : s.portNow = ⟨s.nextAddr, true⟩ :=
  State.portNow_of_busy ((isBusy_iff _).mpr (.inr h))

/-- While idle the port presents no read (R29). -/
theorem State.portNow_memRen_of_idle {s : State} (h : s.walkState = .idle) : s.portNow.memRen = false := by
  rw [State.portNow_memRen, h, isBusy]

/-- R128 as one chain: the override that is applied last is tested first, and the code seeded by `page_fault` stays when
the needed permission is granted. -/
theorem leafCode_eq_ite (valid readable writable : Bool) (rt : RequestType) :
    leafCode (!valid) readable writable rt =
      if rt = .write ∧ writable = false then 4
      else if rt = .read ∧ readable = false then 2
      else if valid = false then 1 else 0 := by
  cases valid <;> rfl

/-- Settles O7: the free values are the model's own, whatever they are. -/
theorem resetOperationResult : Obligations.ResetOperationResult :=
  fun _ _ _ s => ⟨s.freeNextAddr, s.freeOutputs, s.portNow,
    fun h => State.portNow_of_busy ((isBusy_iff _).mpr h), rfl⟩

/-- Settles O8: the meaning is R92's, its commit written field by field. -/
theorem idleWaitOperationResult : Obligations.IdleWaitOperationResult :=
  fun _ s => ⟨s.freePhysicalAddr, s.portNow, State.portNow_memRen_of_idle, rfl⟩

/-- Settles O9: as O8, with the next state LEVEL1. -/
theorem idleStartOperationResult : Obligations.IdleStartOperationResult :=
  fun _ s => ⟨s.freePhysicalAddr, s.portNow, State.portNow_memRen_of_idle, rfl⟩

/-- Settles O10: the commit writes the register `next_addr` with its own value. -/
theorem level1FaultOperationResult : Obligations.Level1FaultOperationResult :=
  fun _ s => ⟨s.freePhysicalAddr, s.portNow, State.portNow_of_level1, rfl⟩

/-- Settles O11: the leaf fetch address is the entry's base field joined to this tick's `l2_index`. -/
theorem level1DescendOperationResult : Obligations.Level1DescendOperationResult :=
  fun _ s => ⟨s.freePhysicalAddr, s.portNow, State.portNow_of_level1, rfl⟩

/-- Settles O12: the code is the chain of `leafCode_eq_ite`, and the other fields stand in the operation's meaning. -/
theorem level2FinishOperationResult : Obligations.Level2FinishOperationResult := by
  intro n v s e
  refine ⟨s.portNow, State.portNow_of_level2, ?result⟩
  case result =>
    rw [← leafCode_eq_ite]
    rfl

/-- Settles O13: the arm is the fault, whatever the letters and the state. -/
theorem reservedState3Stops : Obligations.ReservedState3Stops :=
  fun _ _ _ => rfl

end OperationResults

section Stops

/-- Every tick answers a next state, but for the unused state value's without reset (R101). -/
theorem step_next_or_unused3 (s : State) :
    (∃ t, step s = .next t) ∨ (s.walkState = .unused3 ∧ s.inputs.reset = false) := by
  obtain hr | ⟨hr, hs, hn⟩ | ⟨hr, hs, hn⟩ | ⟨hr, hs, hv⟩ | ⟨hr, hs, hv⟩ | ⟨hr, hs⟩ | ⟨hr, hs⟩ := s.tick_cases
  · exact .inl ⟨_, step_reset hr⟩
  · exact .inl ⟨_, step_idle_wait hr hs hn⟩
  · exact .inl ⟨_, step_idle_start hr hs hn⟩
  · exact .inl ⟨_, step_l1_fault hr hs hv⟩
  · exact .inl ⟨_, step_l1_descend hr hs hv⟩
  · exact .inl ⟨_, step_l2_finish hr hs⟩
  · exact .inr ⟨hs, hr⟩

/-- Settles O21: a step that stops answers no next state, which leaves the unused value; there the step is one fault. -/
theorem stopsExactlyAtUnusedState : Obligations.StopsExactlyAtUnusedState := by
  intro s
  obtain ⟨t, ht⟩ | ⟨hs, hr⟩ := step_next_or_unused3 s
  · have hlegal : ¬(s.walkState = .unused3 ∧ s.inputs.reset = false) := by
      rintro ⟨hs, hr⟩
      cases (step_unused3 hr hs).symm.trans ht
    rw [ht]
    exact ⟨fun f => ⟨nofun, fun ⟨hs, hr, _⟩ => absurd ⟨hs, hr⟩ hlegal⟩, nofun⟩
  · rw [step_unused3 hr hs]
    exact ⟨fun f => ⟨fun h => ⟨hs, hr, (Host.Outcome.fault.inj h).symm⟩, fun ⟨_, _, hf⟩ => by rw [hf]⟩, nofun⟩

end Stops

section Successors

/-- Settles O22: `step_next_stage` gives the pairs that can occur; each does, by the row R99 names beside it, in a trace of
one tick without reset. -/
theorem successorRelationExact : Obligations.SuccessorRelationExact := by
  intro a b ha
  constructor
  · rintro ⟨s, t, rfl, h, rfl⟩
    obtain ht | ⟨ht, hs, -⟩ | ⟨ht, hs, -⟩ := step_next_stage h
    · rw [ht]
      cases hs : s.walkState with
      | idle | level1 | level2 => simp
      | unused3 => exact absurd hs ha
    · simp [ht, hs]
    · simp [ht, hs]
  · intro h
    simp only [List.mem_cons, List.not_mem_nil, or_false, Prod.mk.injEq] at h
    obtain ⟨rfl, rfl⟩ | ⟨rfl, rfl⟩ | ⟨rfl, rfl⟩ | ⟨rfl, rfl⟩ | ⟨rfl, rfl⟩ := h
    · exact ⟨traceState [] .idle 0 [.tick 0 false false .read], _, rfl, step_idle_wait rfl rfl rfl, rfl⟩
    · exact ⟨traceState [] .idle 0 [.tick 0 true false .read], _, rfl, step_idle_start rfl rfl rfl, rfl⟩
    · exact ⟨traceState [(0, 0x80000000)] .level1 0 [.tick 0 false false .read], _, rfl,
        step_l1_descend rfl rfl rfl, rfl⟩
    · exact ⟨traceState [] .level1 0 [.tick 0 false false .read], _, rfl, step_l1_fault rfl rfl rfl, rfl⟩
    · exact ⟨traceState [] .level2 0 [.tick 0 false false .read], _, rfl, step_l2_finish rfl rfl, rfl⟩

/-- The last tick of a walk, at LEVEL2 or at an invalid level-1 entry, leads to IDLE (R94, R96). -/
theorem step_last_of_walk {s t : State} (h : step s = .next t)
    (hlast : s.walkState = .level2 ∨ (s.walkState = .level1 ∧ entryValid s.rdata = false)) : t.walkState = .idle := by
  obtain ht | ⟨-, hs, -⟩ | ⟨-, hs, -, hv, -⟩ := step_next_stage h
  · exact ht
  · simp [hs] at hlast
  · simp [hs, hv] at hlast

/-- Settles O47: the next tick is an idle tick with a request, which issues the root fetch of its own address. -/
theorem backToBackWalks : Obligations.BackToBackWalks := by
  intro s t _ h hlast hr hn
  exact ⟨_, step_idle_start hr (step_last_of_walk h hlast) hn, rfl, rfl⟩

end Successors

end Sys2Proof.Machine
end

section
/-! Proofs for spec/42_entry_interpreter.md: the status outputs of a busy tick (R111) and of an idle one (R114). -/

namespace Sys2Proof.Machine

section StatusOutputs

/-- At either level the three status outputs are the fetched entry's bits, whether or not it is valid (R111). -/
theorem step_busy_status {s t : State} (hr : s.inputs.reset = false)
    (hbusy : s.walkState = .level1 ∨ s.walkState = .level2) (h : step s = .next t) :
    t.out.valid = entryValid s.rdata ∧ t.out.dirty = entryDirty s.rdata ∧
      t.out.referenced = entryReferenced s.rdata := by
  obtain hs | hs := hbusy
  · cases hv : entryValid s.rdata with
    | false =>
      cases (step_l1_fault hr hs hv).symm.trans h
      exact ⟨rfl, rfl, rfl⟩
    | true =>
      cases (step_l1_descend hr hs hv).symm.trans h
      exact ⟨rfl, rfl, rfl⟩
  · cases (step_l2_finish hr hs).symm.trans h
    exact ⟨rfl, rfl, rfl⟩

/-- A new request or none, an idle tick drives the idle outputs and issues the root fetch (R92, R93, R114). -/
theorem step_idle_result {s t : State} (hr : s.inputs.reset = false) (hs : s.walkState = .idle)
    (h : step s = .next t) :
    t.out = s.idleOutputs ∧ t.nextAddr = rootFetchAddr (l1Index s.inputs.virtualAddr) := by
  cases hn : s.inputs.newRequest with
  | false =>
    cases (step_idle_wait hr hs hn).symm.trans h
    exact ⟨rfl, rfl⟩
  | true =>
    cases (step_idle_start hr hs hn).symm.trans h
    exact ⟨rfl, rfl⟩

/-- While idle `page_fault` is 0, whatever word the Memory holds (R97, D17). -/
@[simp] theorem pageFault_idle (e : Word) : pageFault .idle e = false :=
  rfl

/-- Settles O37: `step_busy_status` on the word the Memory holds at `next_addr`, and the idle outputs field by field. -/
theorem statusOutputsReflectEntryRead : Obligations.StatusOutputsReflectEntryRead := by
  intro s t hr h
  refine ⟨fun hbusy => step_busy_status hr hbusy h, fun hs => ?idle⟩
  case idle =>
    obtain ⟨hout, hna⟩ := step_idle_result hr hs h
    rw [hout, hs, pageFault_idle]
    exact ⟨rfl, rfl, rfl, rfl, rfl, rfl, hna⟩

end StatusOutputs

end Sys2Proof.Machine
end

section
/-! Proofs for spec/43_error_output_resolver.md: the LEVEL2 code and the order decision D1 keeps (R128, R129), then
`error_code` and `finished_walk` of a tick without reset, stage by stage (R126, R127, R131, R132). -/

namespace Sys2Proof.Machine

section LeafCode

/-- Settles O39: the request type says which of the two overrides in the chain of R128 can apply. -/
theorem leafCodeClosedForm : Obligations.LeafCodeClosedForm := by
  intro valid readable writable rt
  rw [leafCode_eq_ite]
  cases rt with
  | read => cases valid <;> simp
  | write => cases valid <;> simp

/-- The order R128 rejects: an invalid leaf is a page fault at once, and a valid leaf's code does not depend on the order. -/
theorem leafCodeUnder_faultOverPerm (valid readable writable : Bool) (rt : RequestType) :
    leafCodeUnder .faultOverPerm (!valid) readable writable rt =
      if valid = false then 1 else leafCode (!valid) readable writable rt := by
  cases valid <;> rfl

/-- An invalid leaf escapes the page-fault code exactly when the permission the request needs is 0 (R128, D1). -/
theorem leafCode_invalid_ne_one_iff (readable writable : Bool) (rt : RequestType) :
    (1 : BitVec 3) ≠ leafCode (!false) readable writable rt ↔
      rt = .read ∧ readable = false ∨ rt = .write ∧ writable = false := by
  rw [leafCodeClosedForm]
  cases rt with
  | read => cases readable <;> simp
  | write => cases writable <;> simp

/-- Settles O40: of a valid leaf the two orders give one code, and of an invalid one the rejected order gives 1. -/
theorem leafOrdersDifferInFourRows : Obligations.LeafOrdersDifferInFourRows := by
  intro valid readable writable rt
  rw [leafCodeUnder_faultOverPerm]
  cases valid with
  | true => simp
  | false => simpa using leafCode_invalid_ne_one_iff readable writable rt

theorem leafCode_values (valid readable writable : Bool) (rt : RequestType) :
    leafCode (!valid) readable writable rt = 0 ∨ leafCode (!valid) readable writable rt = 1 ∨
      leafCode (!valid) readable writable rt = 2 ∨ leafCode (!valid) readable writable rt = 4 := by
  rw [leafCode_eq_ite]
  split_ifs <;> simp

end LeafCode

section CodeByStage

/-- A LEVEL1 tick reports the fetched entry's fault and nothing else, and descends exactly when there is none (R94, R95,
R127). -/
theorem step_level1_result {s t : State} (hr : s.inputs.reset = false) (hs : s.walkState = .level1)
    (h : step s = .next t) :
    t.out.errorCode = (if entryValid s.rdata = false then 1 else 0) ∧ t.out.finishedWalk = false ∧
      (t.walkState = .level2 ↔ entryValid s.rdata = true) := by
  cases hv : entryValid s.rdata with
  | false =>
    cases (step_l1_fault hr hs hv).symm.trans h
    exact ⟨rfl, rfl, nofun, nofun⟩
  | true =>
    cases (step_l1_descend hr hs hv).symm.trans h
    exact ⟨rfl, rfl, fun _ => rfl, fun _ => rfl⟩

/-- What the resolver drives in a tick without reset that answers, by stage (R125 to R128, R132). -/
theorem step_resolver_cases {s t : State} (hr : s.inputs.reset = false) (h : step s = .next t) :
    (s.walkState = .idle ∧ t.out.errorCode = 0 ∧ t.out.finishedWalk = false) ∨
    (s.walkState = .level1 ∧ t.out.errorCode = (if entryValid s.rdata = false then 1 else 0) ∧
      t.out.finishedWalk = false) ∨
    (s.walkState = .level2 ∧
      t.out.errorCode =
        leafCode (!entryValid s.rdata) (entryReadable s.rdata) (entryWritable s.rdata) s.inputs.requestType ∧
      t.out.finishedWalk = true) := by
  cases hs : s.walkState with
  | idle =>
    obtain ⟨hout, -⟩ := step_idle_result hr hs h
    exact .inl ⟨rfl, by rw [hout]; rfl, by rw [hout]; rfl⟩
  | level1 =>
    obtain ⟨hcode, hfin, -⟩ := step_level1_result hr hs h
    exact .inr (.inl ⟨rfl, hcode, hfin⟩)
  | level2 =>
    cases (step_l2_finish hr hs).symm.trans h
    exact .inr (.inr ⟨rfl, rfl, rfl⟩)
  | unused3 => cases (step_unused3 hr hs).symm.trans h

/-- Settles O34: the code is 0 at IDLE, 0 or 1 at LEVEL1, and one of the four leaf codes at LEVEL2. -/
theorem errorCodesByStage : Obligations.ErrorCodesByStage := by
  intro s t hr h
  obtain ⟨hs, hcode, -⟩ | ⟨hs, hcode, -⟩ | ⟨hs, hcode, -⟩ := step_resolver_cases hr h
  · simp [hs, hcode]
  · cases hv : entryValid s.rdata <;> simp [hs, hcode, hv]
  · simpa [hs, hcode] using leafCode_values _ _ _ _

/-- A tick whose stage is one of the three legal ones answers a next state (R143). -/
theorem step_next_of_ne_unused3 {s : State} (hs : s.walkState ≠ .unused3) : ∃ t, step s = .next t :=
  (step_next_or_unused3 s).resolve_right fun ⟨hunused, _⟩ => hs hunused

/-- Settles O35: either stage's tick answers, with the code of that stage; bit 31 of the word read is `entryValid`. -/
theorem errorCodeAtIdleAndLevel1 : Obligations.ErrorCodeAtIdleAndLevel1 := by
  intro s hr
  refine ⟨fun hs => ?idle, fun hs => ?level1⟩
  case idle =>
    obtain ⟨t, h⟩ := step_next_of_ne_unused3 (s := s) (by simp [hs])
    obtain ⟨hout, -⟩ := step_idle_result hr hs h
    exact ⟨t, h, by rw [hout]; rfl⟩
  case level1 =>
    obtain ⟨t, h⟩ := step_next_of_ne_unused3 (s := s) (by simp [hs])
    obtain ⟨hcode, -⟩ := step_level1_result hr hs h
    exact ⟨t, h, hcode⟩

theorem step_finishedWalk_iff {s t : State} (hr : s.inputs.reset = false) (h : step s = .next t) :
    t.out.finishedWalk = true ↔ s.walkState = .level2 := by
  obtain ⟨hs, -, hfin⟩ | ⟨hs, -, hfin⟩ | ⟨hs, -, hfin⟩ := step_resolver_cases hr h <;> simp [hs, hfin]

/-- Settles O36: of the three ticks only the third can be a LEVEL2 tick, and the second enters LEVEL2 exactly when the
level-1 entry is valid. -/
theorem finishedWalkExactlyAtLevel2 : Obligations.FinishedWalkExactlyAtLevel2 := by
  refine ⟨fun s t => step_finishedWalk_iff, fun s t1 t2 t3 hs hr hn h1 hr1 h2 => ?walk⟩
  case walk =>
    cases (step_idle_start hr hs hn).symm.trans h1
    obtain ⟨-, hfin2, hdescend⟩ := step_level1_result hr1 rfl h2
    exact ⟨rfl, hfin2, fun hr2 h3 => (step_finishedWalk_iff hr2 h3).trans hdescend⟩

end CodeByStage

end Sys2Proof.Machine
end

section
/-! Proofs for spec/44_tick_composition.md: the composed tick and what it is determined by (R140, R142, R149), its totality
and reset (R143, R148), the code at the leaf (R146, R147), and the walks put together from ticks (R144, R145, R150). -/

namespace Sys2Proof.Machine

section ComposedTick

variable {g : TickSignals} (x : Addr) (o : Outputs)

theorem State.signals_inputs (s : State) : s.signals.inputs = s.inputs := rfl

/-! One equation per stage of the composed tick (R140), the four pieces evaluated. -/

theorem tick_of_reset (hr : g.inputs.reset = true) :
    tick g x o = some ⟨.idle, x, o, ⟨g.nextAddr, isBusy g.walkState⟩⟩ := by
  simp [tick, hr]

theorem tick_of_idle (hr : g.inputs.reset = false) (hs : g.walkState = .idle) :
    tick g x o = some ⟨if g.inputs.newRequest then .level1 else .idle, rootFetchAddr (l1Index g.inputs.virtualAddr),
      ⟨o.physicalAddr, false, false, false, codeNone, false⟩, ⟨g.nextAddr, isBusy g.walkState⟩⟩ := by
  simp [tick, decodeAddr, interpret, resolve, transition, hr, hs]

theorem tick_of_level1_invalid (hr : g.inputs.reset = false) (hs : g.walkState = .level1)
    (hv : entryValid g.rdata = false) :
    tick g x o = some ⟨.idle, g.nextAddr,
      ⟨o.physicalAddr, false, entryDirty g.rdata, entryReferenced g.rdata, codePageFault, false⟩,
      ⟨g.nextAddr, isBusy g.walkState⟩⟩ := by
  simp [tick, decodeAddr, interpret, resolve, transition, pageFaultCode, hr, hs, hv]

theorem tick_of_level1_valid (hr : g.inputs.reset = false) (hs : g.walkState = .level1)
    (hv : entryValid g.rdata = true) :
    tick g x o = some ⟨.level2, leafFetchAddr g.rdata (l2Index g.inputs.virtualAddr),
      ⟨o.physicalAddr, true, entryDirty g.rdata, entryReferenced g.rdata, codeNone, false⟩,
      ⟨g.nextAddr, isBusy g.walkState⟩⟩ := by
  simp [tick, decodeAddr, interpret, resolve, transition, pageFaultCode, hr, hs, hv]

theorem tick_of_level2 (hr : g.inputs.reset = false) (hs : g.walkState = .level2) :
    tick g x o = some ⟨.idle, g.nextAddr,
      ⟨physAddr g.rdata (pageOffset g.inputs.virtualAddr), entryValid g.rdata, entryDirty g.rdata,
        entryReferenced g.rdata,
        leafCode (!entryValid g.rdata) (entryReadable g.rdata) (entryWritable g.rdata) g.inputs.requestType, true⟩,
      ⟨g.nextAddr, isBusy g.walkState⟩⟩ := by
  simp [tick, decodeAddr, interpret, resolve, transition, hr, hs]

theorem tick_of_unused3 (hr : g.inputs.reset = false) (hs : g.walkState = .unused3) : tick g x o = none := by
  simp [tick, interpret, hr, hs]

/-- A step that answers is the composed tick, the `X` cells filled with the step's own free values. -/
theorem tick_of_step_next {s t : State} (h : step s = .next t) :
    tick s.signals s.freeNextAddr s.freeOutputs = some ⟨t.walkState, t.nextAddr, t.out, t.port⟩ := by
  obtain hr | ⟨hr, hs, hn⟩ | ⟨hr, hs, hn⟩ | ⟨hr, hs, hv⟩ | ⟨hr, hs, hv⟩ | ⟨hr, hs⟩ | ⟨hr, hs⟩ := s.tick_cases
  · cases (step_reset hr).symm.trans h
    exact tick_of_reset _ _ hr
  · cases (step_idle_wait hr hs hn).symm.trans h
    rw [tick_of_idle _ _ hr hs, State.signals_inputs, hn]
    rfl
  · cases (step_idle_start hr hs hn).symm.trans h
    rw [tick_of_idle _ _ hr hs, State.signals_inputs, hn]
    rfl
  · cases (step_l1_fault hr hs hv).symm.trans h
    exact tick_of_level1_invalid _ _ hr hs hv
  · cases (step_l1_descend hr hs hv).symm.trans h
    exact tick_of_level1_valid _ _ hr hs hv
  · cases (step_l2_finish hr hs).symm.trans h
    exact tick_of_level2 _ _ hr hs
  · cases (step_unused3 hr hs).symm.trans h

/-- Settles O16: an answering step is its tick row by row, and a step faults only where the tick's pieces are undefined. -/
theorem stepRefinesComposedTick : Obligations.StepRefinesComposedTick := by
  intro s
  obtain ⟨hfault, hrefused⟩ := stopsExactlyAtUnusedState s
  refine ⟨fun t h => ⟨_, _, tick_of_step_next h⟩, fun f h x o => ?fault, hrefused⟩
  case fault =>
    obtain ⟨hs, hr, -⟩ := (hfault f).mp h
    exact tick_of_unused3 x o hr hs

end ComposedTick

section Dependence

/-- Settles O33: every value a stage reads in `ticksAgree_of` is a function of the signals. -/
theorem tickDeterminedBySignals : Obligations.TickDeterminedBySignals := by
  intro s s' h
  obtain ⟨hs, hna, hin, hrdata⟩ := TickSignals.mk.inj h
  refine ticksAgree_of hs (by rw [hin]) ?idle ?level1 ?level2
  case idle => simp [hin]
  case level1 => simp [hna, hin, hrdata]
  case level2 => simp [hna, hin, hrdata]

/-- Settles O27: only the idle stage's condition of `ticksAgree_of` names `new_request`. -/
theorem busyIgnoresNewRequest : Obligations.BusyIgnoresNewRequest := by
  intro s i hbusy
  refine ticksAgree_of rfl rfl ?idle ?level1 ?level2
  case idle => exact fun hs => absurd hs hbusy
  case level1 => exact fun _ => ⟨rfl, rfl, rfl, rfl, rfl⟩
  case level2 => exact fun _ => ⟨rfl, rfl, rfl, rfl, rfl, rfl, rfl, rfl⟩

end Dependence

section ReturnToIdle

/-- Settles O23: the reset row of the transition table has no condition on the state. -/
theorem resetForcesIdle : Obligations.ResetForcesIdle :=
  fun _ hr => ⟨_, step_reset hr, rfl⟩

/-- Settles O20: a tick from LEVEL1 leads to IDLE or LEVEL2, and a tick from LEVEL2 to IDLE. -/
theorem alwaysStepsAndReturnsToIdle : Obligations.AlwaysStepsAndReturnsToIdle := by
  intro s hlegal
  obtain ⟨t, h⟩ := step_next_of_ne_unused3 hlegal
  refine ⟨t, h, ?_⟩
  obtain ht | ⟨-, hs, -⟩ | ⟨ht, -⟩ := step_next_stage h
  · exact .inr (.inl ht)
  · exact .inl hs
  · obtain ⟨u, hu⟩ := step_next_of_ne_unused3 (s := t) (by simp [ht])
    exact .inr (.inr ⟨u, hu, step_last_of_walk hu (.inl ht)⟩)

end ReturnToIdle

section CodeAtTheLeaf

/-- A missing read permission replaces whatever `page_fault` seeded (R128, D1). -/
theorem leafCode_read_denied (valid writable : Bool) : leafCode (!valid) false writable .read = 2 := by
  simp [leafCode_eq_ite]

theorem leafCode_write_denied (valid readable : Bool) : leafCode (!valid) readable false .write = 4 := by
  simp [leafCode_eq_ite]

theorem leafCode_valid_granted {readable writable : Bool} {rt : RequestType} (hread : rt = .read → readable = true)
    (hwrite : rt = .write → writable = true) : leafCode (!true) readable writable rt = 0 := by
  rw [leafCodeClosedForm]
  cases rt with
  | read => simp [hread rfl]
  | write => simp [hwrite rfl]

theorem leafCode_invalid_eq_one_iff (readable writable : Bool) (rt : RequestType) :
    leafCode (!false) readable writable rt = 1 ↔ rt = .read ∧ readable = true ∨ rt = .write ∧ writable = true := by
  rw [leafCodeClosedForm]
  cases rt with
  | read => cases readable <;> simp
  | write => cases writable <;> simp

/-- An invalid leaf that escapes the page-fault code shows the violation of the permission it lacks (R128, D1). -/
theorem leafCode_invalid_of_ne_one {readable writable : Bool} {rt : RequestType}
    (h : leafCode (!false) readable writable rt ≠ 1) :
    leafCode (!false) readable writable rt = 2 ∨ leafCode (!false) readable writable rt = 4 := by
  obtain ⟨rfl, rfl⟩ | ⟨rfl, rfl⟩ := (leafCode_invalid_ne_one_iff readable writable rt).mp h.symm
  · exact .inl (leafCode_read_denied false writable)
  · exact .inr (leafCode_write_denied false readable)

/-- What a LEVEL2 tick without reset drives beside the status bits (R96). -/
theorem step_level2_answers {s : State} (hr : s.inputs.reset = false) (hs : s.walkState = .level2) :
    ∃ t, step s = .next t ∧ t.out.finishedWalk = true ∧
      t.out.physicalAddr = physAddr s.rdata (pageOffset s.inputs.virtualAddr) ∧
      t.out.errorCode =
        leafCode (!entryValid s.rdata) (entryReadable s.rdata) (entryWritable s.rdata) s.inputs.requestType :=
  ⟨_, step_l2_finish hr hs, rfl, rfl, rfl⟩

/-- Settles O41: the permission overrides of the leaf code come last, whatever bit 31 seeded. -/
theorem permissionViolationsAtTheLeaf : Obligations.PermissionViolationsAtTheLeaf := by
  intro s hr hs
  obtain ⟨t, h, -, -, hcode⟩ := step_level2_answers hr hs
  refine ⟨t, h, fun hrt hdenied => ?read, fun hrt hdenied => ?write⟩
  case read =>
    have hreadable : entryReadable s.rdata = false := hdenied
    rw [hcode, hrt, hreadable, leafCode_read_denied]
  case write =>
    have hwritable : entryWritable s.rdata = false := hdenied
    rw [hcode, hrt, hwritable, leafCode_write_denied]

/-- Settles O42: the leaf code of an invalid entry is 1 or the violation of the permission the request needs. -/
theorem invalidLeafReportsPageFault : Obligations.InvalidLeafReportsPageFault := by
  intro s hr hs hinvalid
  have hv : entryValid s.rdata = false := hinvalid
  obtain ⟨t, h, hfin, -, hcode⟩ := step_level2_answers hr hs
  rw [hv] at hcode
  refine ⟨t, h, hfin, ?one, fun hne => ?other⟩
  case one =>
    rw [hcode]
    exact leafCode_invalid_eq_one_iff _ _ _
  case other =>
    rw [hcode] at hne ⊢
    exact leafCode_invalid_of_ne_one hne

end CodeAtTheLeaf

section Walks

/-- The first tick of a walk: no read, no error, and the root fetch issued for the next tick (R93, R98). -/
theorem step_first_of_walk {s : State} (hs : s.walkState = .idle) (hr : s.inputs.reset = false)
    (hn : s.inputs.newRequest = true) :
    ∃ t, step s = .next t ∧ t.walkState = .level1 ∧
      t.nextAddr = rootFetchAddr (l1Index s.inputs.virtualAddr) ∧ t.out.errorCode = 0 ∧ t.out.finishedWalk = false ∧
      t.port.memRen = false :=
  ⟨_, step_idle_start hr hs hn, rfl, rfl, rfl, rfl, State.portNow_memRen_of_idle hs⟩

/-- A valid level-1 entry: no error, and the leaf fetch issued for the next tick (R95). -/
theorem step_second_of_walk {s : State} (hs : s.walkState = .level1) (hr : s.inputs.reset = false)
    (hv : entryValid s.rdata = true) :
    ∃ t, step s = .next t ∧ t.walkState = .level2 ∧
      t.nextAddr = leafFetchAddr s.rdata (l2Index s.inputs.virtualAddr) ∧ t.out.errorCode = 0 ∧
      t.out.finishedWalk = false :=
  ⟨_, step_l1_descend hr hs hv, rfl, rfl, rfl, rfl⟩

/-- Settles O44: the words read in the second and third ticks are `e1` and `e2`, and a valid leaf that grants the request
has code 0. -/
theorem cleanWalk : Obligations.CleanWalk := by
  intro s va rt hs hr hn hva
  obtain ⟨t1, hstep1, hs1, hna1, hcode1, hfin1, -⟩ := step_first_of_walk hs hr hn
  rw [hva] at hna1
  refine ⟨t1, hstep1, hcode1, hfin1, fun e1 he1 hv1 hr1 hva1 => ?_⟩
  have hread1 : t1.rdata = e1 := (State.rdata_eq rfl hna1).trans he1.symm
  obtain ⟨t2, hstep2, hs2, hna2, hcode2, hfin2⟩ := step_second_of_walk hs1 hr1 (hread1 ▸ hv1)
  rw [hread1, hva1] at hna2
  refine ⟨t2, hstep2, hcode2, hfin2, fun e2 he2 hv2 hread hwrite hr2 hva2 hrt2 => ?_⟩
  have hread2 : t2.rdata = e2 := (State.rdata_eq rfl hna2).trans he2.symm
  obtain ⟨t3, hstep3, hfin3, hpa3, hcode3⟩ := step_level2_answers hr2 hs2
  have hvalid : entryValid e2 = true := hv2
  refine ⟨t3, hstep3, ?code, hfin3, ?address⟩
  case code =>
    rw [hcode3, hread2, hrt2, hvalid]
    exact leafCode_valid_granted hread hwrite
  case address =>
    rw [hpa3, hread2, hva2]
    rfl

/-- A tick that begins in IDLE presents no read (R29). -/
theorem step_next_memRen_of_idle {s t : State} (h : step s = .next t) (hs : s.walkState = .idle) :
    t.port.memRen = false := by
  rw [step_next_port h]
  exact State.portNow_memRen_of_idle hs

/-- Settles O45: the second tick is the fault row, whose port still shows the root read, and it leaves IDLE. -/
theorem level1FaultEndsWalk : Obligations.Level1FaultEndsWalk := by
  intro s va hs hr hn hva
  obtain ⟨t1, hstep1, hs1, hna1, -, -, hport1⟩ := step_first_of_walk hs hr hn
  rw [hva] at hna1
  refine ⟨t1, hstep1, hport1, fun hr1 hinvalid => ?_⟩
  have hv : entryValid t1.rdata = false := by
    rw [State.rdata, hna1]
    exact hinvalid
  have hstep2 := step_l1_fault hr1 hs1 hv
  refine ⟨_, hstep2, rfl, rfl, rfl, ?port, fun t3 hstep3 => step_next_memRen_of_idle hstep3 rfl⟩
  case port =>
    rw [step_next_port hstep2, State.portNow_of_level1 hs1, hna1]
    rfl

/-- After a LEVEL1 tick, a reset tick or not, the PTW is still busy exactly when the tick descended (R91, R94, R95). -/
theorem step_level1_busy_iff {s t : State} (h : step s = .next t) (hs : s.walkState = .level1) :
    isBusy t.walkState = true ↔ s.inputs.reset = false ∧ entryValid s.rdata = true := by
  constructor
  · intro hbusy
    obtain ht | ⟨-, hidle, -⟩ | ⟨-, -, hr, hv, -⟩ := step_next_stage h
    · simp [ht, isBusy] at hbusy
    · simp [hs] at hidle
    · exact ⟨hr, hv⟩
  · rintro ⟨hr, hv⟩
    cases (step_l1_descend hr hs hv).symm.trans h
    rfl

/-- Settles O46: each tick's port is that of the registers it began with, and the third is busy exactly after a descent. -/
theorem readsOfAWalk : Obligations.ReadsOfAWalk := by
  intro s t1 t2 t3 hs hr hn hstep1 hstep2 hstep3
  obtain ⟨_, hfirst, hs1, hna1, -, -, hport1⟩ := step_first_of_walk hs hr hn
  cases hfirst.symm.trans hstep1
  have hport2 : t2.port = ⟨rootFetchAddr (l1Index s.inputs.virtualAddr), true⟩ := by
    rw [step_next_port hstep2, State.portNow_of_level1 hs1, hna1]
  have hbusy : t3.port.memRen = true ↔ t1.inputs.reset = false ∧ entryValid t1.rdata = true := by
    rw [step_next_port hstep3]
    exact step_level1_busy_iff hstep2 hs1
  refine ⟨hport1, hport2, hbusy, fun hread => ?address⟩
  case address =>
    obtain ⟨hr1, hv1⟩ := hbusy.mp hread
    cases (step_l1_descend hr1 hs1 hv1).symm.trans hstep2
    rw [step_next_port hstep3]
    rfl

end Walks

end Sys2Proof.Machine
end

section
/-! Proofs for spec/70_reset_and_hazards.md: what one reset tick establishes (R184, R185), the tick after it (R183), and
the stage that samples `request_type` (R187). -/

namespace Sys2Proof.Machine

section AfterReset

/-- While idle the invariant asks only for a canonical Memory: its root-table clause speaks of LEVEL1. -/
theorem State.inv_of_idle {s : State} (hwf : s.mem.wf = true) (hs : s.walkState = .idle) : s.Inv :=
  ⟨hwf, by simp [hs], by simp [hs]⟩

/-- A step only pokes the Memory, which keeps its canonical form. -/
theorem step_next_mem_wf {s t : State} (hwf : s.mem.wf = true) (h : step s = .next t) : t.mem.wf = true := by
  rw [step_next_mem h]
  exact Memory.poke_wf s.mem s.now.pokes hwf

/-- Whatever the registers held, a reset tick leads to IDLE (R91, R148). -/
theorem step_next_idle_of_reset {s t : State} (hr : s.inputs.reset = true) (h : step s = .next t) :
    t.walkState = .idle := by
  cases (step_reset hr).symm.trans h
  rfl

/-- Settles O25: the reset tick enters IDLE over a canonical Memory; at power-on no address is listed. -/
theorem oneResetTickIsEnough : Obligations.OneResetTickIsEnough := by
  refine ⟨fun s hwf hr => ?reset, fun _ => rfl⟩
  case reset =>
    obtain ⟨t, h, ht⟩ := resetForcesIdle s hr
    exact ⟨t, h, State.inv_of_idle (step_next_mem_wf hwf h) ht⟩

/-- Settles O26: the reset tick leaves IDLE, and an idle tick without reset answers with the idle outputs. -/
theorem firstTickAfterReset : Obligations.FirstTickAfterReset := by
  intro s t hr h htr
  have ht : t.walkState = .idle := step_next_idle_of_reset hr h
  obtain ⟨u, hu⟩ := step_next_of_ne_unused3 (s := t) (by simp [ht])
  obtain ⟨hout, hna⟩ := step_idle_result htr ht hu
  refine ⟨u, hu, ?_⟩
  rw [hout]
  exact ⟨rfl, rfl, rfl, rfl, rfl, hna⟩

end AfterReset

section RequestTypeSampling

/-- Settles O28: only the LEVEL2 condition of `ticksAgree_of` names `request_type`. -/
theorem requestTypeSampledAtLevel2Only : Obligations.RequestTypeSampledAtLevel2Only := by
  intro s i hstage
  refine ticksAgree_of rfl rfl ?idle ?level1 ?level2
  case idle => exact fun _ => ⟨rfl, rfl⟩
  case level1 => exact fun _ => ⟨rfl, rfl, rfl, rfl, rfl⟩
  case level2 => exact fun hs => absurd hs hstage

end RequestTypeSampling

end Sys2Proof.Machine
end
